-- ==== Sys2Proof/Word.lean ====
section
/-! DEFINITION. The words of the machine (spec/00_scope.md R6, R7): every CP15 register, general register and address
is 32 bits wide; the memory's smallest unit is the byte (spec/20_memory.md R55). -/

namespace Sys2Proof

/-- A 32-bit word: a register's contents, an address, an instruction word. -/
abbrev Word := BitVec 32

/-- A byte of memory. -/
abbrev Byte := BitVec 8

end Sys2Proof
end

