-- ==== Sys2Proof/Config.lean ====
section
/-! DEFINITION. What the spec leaves OPEN and fixed for a run (spec/00_scope.md R6): parameters, and the free values of
`draw(N)` (R8). An open parameter is an opaque constant with no body, so a proof holds for every value of it. -/

namespace Sys2Proof

/-- `RES_SCTLR`: what the reserved bits of SCTLR read (R32; log entry 7). Only bits of the reserved mask count. -/
opaque Config.resSctlr : Word

/-- `RES_ACTLR`: what the reserved bits of ACTLR read (R40; log entry 7). -/
opaque Config.resActlr : Word

/-- `RES_DFSR`: what the reserved bits of DFSR read (R41; log entry 7). -/
opaque Config.resDfsr : Word

/-- `RES_IFSR`: what the reserved bits of IFSR read (R43; log entry 7). -/
opaque Config.resIfsr : Word

/-- `RES_ADFSR`: what the reserved bits of ADFSR read (R44; log entry 7). -/
opaque Config.resAdfsr : Word

/-- `RES_AIFSR`: what the reserved bits of AIFSR read (R44; log entry 7). -/
opaque Config.resAifsr : Word

/-- `RESET_SCTLR_X`: the reset value of the `x` fields of SCTLR (R130; log entry 5). -/
opaque Config.resetSctlrX : Word

/-- `RESET_ACTLR_X`: the reset value of the fields of ACTLR (R131; log entry 5). -/
opaque Config.resetActlrX : Word

/-- `NMFI_WRITABLE`: whether `MCR` can change SCTLR.NMFI (R20, R33; log entry 8). -/
opaque Config.nmfiWritable : Bool

/-- `AIFSR_INDEX_RAZ`: whether AIFSR.Index reads 0 after a software write (R46; log entry 9). -/
opaque Config.aifsrIndexRaz : Bool

/-- The sources of a parity or ECC error that the Side field names (R45). -/
inductive ParitySource where
  | cache
  | itcm
  | dtcm
deriving DecidableEq, Repr

/-- The two bits of Side that name a source: the spec fixes no coding (R45; the informative U17 gives one; log entry 19). -/
opaque Config.sideCode : ParitySource → BitVec 2

/-- `INSTR_BIG_ENDIAN`: the byte order of an instruction word in memory; its default is true (R56; log entry 14). -/
def Config.instrBigEndian : Bool := true

/-- The values of `draw(N)` (R8), numbered by the counter `draws` of the state; nothing constrains them
(R114 to R118, R132; log entries 6 and 17). A draw of fewer than 32 bits takes the low bits of one. -/
opaque Config.freeValue : Nat → Word

end Sys2Proof
end

