-- ==== Sys2Proof/Syntax.lean ====
section
/-! DEFINITION. The instructions: the tuple every instruction is a spelling of (spec/30_encoding.md R65, R66), and
`Instr`, one constructor per row of spec/opcode_table.json (R71). Meaning is in Machine/ alone. -/

namespace Sys2Proof

/-- The direction of a transfer: `MRC` reads a CP15 register, `MCR` writes one (R65, R80, R81). -/
inductive Op where
  | mrc
  | mcr
deriving DecidableEq, Repr

/-- The fifteen conditions (R69). The sixteenth code, 1111, is no condition (R72 step 2). -/
inductive Cond where
  | eq | ne | cs | cc | mi | pl | vs | vc | hi | ls | ge | lt | gt | le | al
deriving DecidableEq, Repr

/-- The eight CP15 registers the spec describes (R13). -/
inductive Cp15Reg where
  | sctlr | actlr | dfsr | ifsr | adfsr | aifsr | dfar | ifar
deriving DecidableEq, Repr

/-- The number of a core register as an operand: 0 to 15, of which 15 is refused (R66, R74). -/
abbrev RegNum := BitVec 4

/-- The selector of a CP15 register: the 4-tuple (CRn, opc_1, CRm, opc_2) of R13. -/
structure Selector where
  crn  : BitVec 4
  opc1 : BitVec 3
  crm  : BitVec 4
  opc2 : BitVec 3
deriving DecidableEq, Repr

/-- The 8-tuple of R65, each field with the range of R66. It spells admitted and refused instructions alike. -/
structure Transfer where
  op    : Op
  cond  : BitVec 4
  cpNum : BitVec 4
  sel   : Selector
  rd    : RegNum
deriving DecidableEq, Repr

/-- The sixteen instructions of R71, one constructor per row of the opcode table: condition, then `Rd`. -/
inductive Instr where
  | mrcSctlr (cond : Cond) (rd : RegNum)
  | mcrSctlr (cond : Cond) (rd : RegNum)
  | mrcActlr (cond : Cond) (rd : RegNum)
  | mcrActlr (cond : Cond) (rd : RegNum)
  | mrcDfsr (cond : Cond) (rd : RegNum)
  | mcrDfsr (cond : Cond) (rd : RegNum)
  | mrcIfsr (cond : Cond) (rd : RegNum)
  | mcrIfsr (cond : Cond) (rd : RegNum)
  | mrcAdfsr (cond : Cond) (rd : RegNum)
  | mcrAdfsr (cond : Cond) (rd : RegNum)
  | mrcAifsr (cond : Cond) (rd : RegNum)
  | mcrAifsr (cond : Cond) (rd : RegNum)
  | mrcDfar (cond : Cond) (rd : RegNum)
  | mcrDfar (cond : Cond) (rd : RegNum)
  | mrcIfar (cond : Cond) (rd : RegNum)
  | mcrIfar (cond : Cond) (rd : RegNum)
deriving DecidableEq, Repr

/-- The direction of an instruction. -/
def Instr.op : Instr → Op
  | .mrcSctlr _ _ | .mrcActlr _ _ | .mrcDfsr _ _ | .mrcIfsr _ _ => .mrc
  | .mrcAdfsr _ _ | .mrcAifsr _ _ | .mrcDfar _ _ | .mrcIfar _ _ => .mrc
  | .mcrSctlr _ _ | .mcrActlr _ _ | .mcrDfsr _ _ | .mcrIfsr _ _ => .mcr
  | .mcrAdfsr _ _ | .mcrAifsr _ _ | .mcrDfar _ _ | .mcrIfar _ _ => .mcr

/-- The CP15 register an instruction reads or writes. -/
def Instr.reg : Instr → Cp15Reg
  | .mrcSctlr _ _ | .mcrSctlr _ _ => .sctlr
  | .mrcActlr _ _ | .mcrActlr _ _ => .actlr
  | .mrcDfsr _ _ | .mcrDfsr _ _ => .dfsr
  | .mrcIfsr _ _ | .mcrIfsr _ _ => .ifsr
  | .mrcAdfsr _ _ | .mcrAdfsr _ _ => .adfsr
  | .mrcAifsr _ _ | .mcrAifsr _ _ => .aifsr
  | .mrcDfar _ _ | .mcrDfar _ _ => .dfar
  | .mrcIfar _ _ | .mcrIfar _ _ => .ifar

/-- The condition of an instruction. -/
def Instr.cond : Instr → Cond
  | .mrcSctlr c _ | .mcrSctlr c _ | .mrcActlr c _ | .mcrActlr c _ => c
  | .mrcDfsr c _ | .mcrDfsr c _ | .mrcIfsr c _ | .mcrIfsr c _ => c
  | .mrcAdfsr c _ | .mcrAdfsr c _ | .mrcAifsr c _ | .mcrAifsr c _ => c
  | .mrcDfar c _ | .mcrDfar c _ | .mrcIfar c _ | .mcrIfar c _ => c

/-- The core register operand of an instruction. -/
def Instr.rd : Instr → RegNum
  | .mrcSctlr _ d | .mcrSctlr _ d | .mrcActlr _ d | .mcrActlr _ d => d
  | .mrcDfsr _ d | .mcrDfsr _ d | .mrcIfsr _ d | .mcrIfsr _ d => d
  | .mrcAdfsr _ d | .mcrAdfsr _ d | .mrcAifsr _ d | .mcrAifsr _ d => d
  | .mrcDfar _ d | .mcrDfar _ d | .mrcIfar _ d | .mcrIfar _ d => d

/-- The instruction of a direction and a register: the row of R71 they name. -/
def Instr.ofParts : Op → Cp15Reg → Cond → RegNum → Instr
  | .mrc, .sctlr, c, d => .mrcSctlr c d
  | .mcr, .sctlr, c, d => .mcrSctlr c d
  | .mrc, .actlr, c, d => .mrcActlr c d
  | .mcr, .actlr, c, d => .mcrActlr c d
  | .mrc, .dfsr, c, d => .mrcDfsr c d
  | .mcr, .dfsr, c, d => .mcrDfsr c d
  | .mrc, .ifsr, c, d => .mrcIfsr c d
  | .mcr, .ifsr, c, d => .mcrIfsr c d
  | .mrc, .adfsr, c, d => .mrcAdfsr c d
  | .mcr, .adfsr, c, d => .mcrAdfsr c d
  | .mrc, .aifsr, c, d => .mrcAifsr c d
  | .mcr, .aifsr, c, d => .mcrAifsr c d
  | .mrc, .dfar, c, d => .mrcDfar c d
  | .mcr, .dfar, c, d => .mcrDfar c d
  | .mrc, .ifar, c, d => .mrcIfar c d
  | .mcr, .ifar, c, d => .mcrIfar c d

end Sys2Proof
end

