-- ==== Sys2Proof/WellFormed.lean ====
section
/-! DEFINITION. Which instructions are admitted (spec/30_encoding.md R66, R74): the one check on syntax the types do not
already make is that `Rd` is not 15. -/

namespace Sys2Proof

/-- `Rd` is one of R0 to R14 (R10, R74). -/
def RegNum.admitted (d : RegNum) : Bool := d ≠ 15#4

/-- An instruction the spec gives a meaning (R79: fifteen values of `Rd`, fifteen of `cond`). -/
def Instr.wf (i : Instr) : Bool := RegNum.admitted i.rd

end Sys2Proof
end

