-- ==== Sys2Proof/Decode.lean ====
section
/-! DEFINITION. Decoding, total on any bytes, and the encoder, both from the A32 formats of spec/30_encoding.md
R67 and R68 and the seven steps of R72. -/

namespace Sys2Proof

/-- Why the decoder refuses a word (R72). Each is safe: the model stops where the spec gives no meaning. -/
inductive DecodeRefusal where
  /-- Fewer than four bytes were given (a decoder's own check; the machine always gives four). Safe. -/
  | truncated
  /-- Not an `MRC` or `MCR` of this spec: steps 1 and 2 of R72. Safe. -/
  | notInScope
  /-- Another coprocessor: step 3 of R72, R73. Safe. -/
  | otherCoprocessor
  /-- `Rd` = 15: step 4 of R72, R74. Raised by the decoder, and by a meaning given an ill-formed instruction. Safe. -/
  | rdIsPc
  /-- A CP15 place Table 4-1 mentions and does not describe: step 6 of R72, R99. Safe. -/
  | undescribedRegister
  /-- A CP15 place the source knows nothing of: step 7 of R72, R98. Safe. -/
  | unknownCp15Encoding
deriving DecidableEq, Repr

/-- The condition of a 4-bit code (R69); 1111 is none. -/
def condOfBits (c : BitVec 4) : Option Cond :=
  match c.toNat with
  | 0 => some .eq
  | 1 => some .ne
  | 2 => some .cs
  | 3 => some .cc
  | 4 => some .mi
  | 5 => some .pl
  | 6 => some .vs
  | 7 => some .vc
  | 8 => some .hi
  | 9 => some .ls
  | 10 => some .ge
  | 11 => some .lt
  | 12 => some .gt
  | 13 => some .le
  | 14 => some .al
  | _ => none

/-- The code of a condition (R69). -/
def condBits : Cond → BitVec 4
  | .eq => 0b0000#4
  | .ne => 0b0001#4
  | .cs => 0b0010#4
  | .cc => 0b0011#4
  | .mi => 0b0100#4
  | .pl => 0b0101#4
  | .vs => 0b0110#4
  | .vc => 0b0111#4
  | .hi => 0b1000#4
  | .ls => 0b1001#4
  | .ge => 0b1010#4
  | .lt => 0b1011#4
  | .gt => 0b1100#4
  | .le => 0b1101#4
  | .al => 0b1110#4

/-- The tuple that selects a register (the table of R13; IFAR at (c6, 0, c0, 2) by R48, log entry 10). -/
def selectorOf : Cp15Reg → Selector
  | .sctlr => ⟨1#4, 0#3, 0#4, 0#3⟩
  | .actlr => ⟨1#4, 0#3, 0#4, 1#3⟩
  | .dfsr => ⟨5#4, 0#3, 0#4, 0#3⟩
  | .ifsr => ⟨5#4, 0#3, 0#4, 1#3⟩
  | .adfsr => ⟨5#4, 0#3, 1#4, 0#3⟩
  | .aifsr => ⟨5#4, 0#3, 1#4, 1#3⟩
  | .dfar => ⟨6#4, 0#3, 0#4, 0#3⟩
  | .ifar => ⟨6#4, 0#3, 0#4, 2#3⟩

/-- The eight described registers (R13), in the order of its table. -/
def cp15Regs : List Cp15Reg := [.sctlr, .actlr, .dfsr, .ifsr, .adfsr, .aifsr, .dfar, .ifar]

/-- The register a tuple selects, if it is one of the eight (R13). -/
def regOfSelector (t : Selector) : Option Cp15Reg := cp15Regs.find? (fun r => selectorOf r = t)

/-- The values of `CRn` that step 6 of R72 lists (R99): those Table 4-1 mentions, less c5, which is described in full. -/
def crnMentioned (n : BitVec 4) : Bool :=
  [0#4, 1#4, 6#4, 7#4, 9#4, 11#4, 13#4, 15#4].contains n

/-- `op` of bit 20 (R67, R68). -/
def opOfBit (l : Bool) : Op := if l then .mrc else .mcr

/-- Bit 20 of `op` (R67, R68). -/
def opBit : Op → BitVec 1
  | .mrc => 1#1
  | .mcr => 0#1

/-- The fields of a word, each from its bits (R67, R68, R78). -/
def transferOfWord (w : Word) : Transfer :=
  { op := opOfBit (w.getLsbD 20)
    cond := w.extractLsb' 28 4
    cpNum := w.extractLsb' 8 4
    sel := { crn := w.extractLsb' 16 4, opc1 := w.extractLsb' 21 3, crm := w.extractLsb' 0 4, opc2 := w.extractLsb' 5 3 }
    rd := w.extractLsb' 12 4 }

/-- The word of a tuple: cond, 1110, opc_1, L, CRn, Rd, cp_num, opc_2, 1, CRm from bit 31 down (R67, R68). -/
def wordOfTransfer (t : Transfer) : Word :=
  t.cond ++ 0b1110#4 ++ t.sel.opc1 ++ opBit t.op ++ t.sel.crn ++ t.rd ++ t.cpNum ++ t.sel.opc2 ++ 1#1 ++ t.sel.crm

/-- Step 1 of R72: bits 27:24 are 1110 and bit 4 is 1. -/
def isRegisterTransfer (w : Word) : Bool := w.extractLsb' 24 4 == 0b1110#4 && w.getLsbD 4

/-- Steps 2 to 7 of R72, on the tuple. -/
def decodeTransfer (t : Transfer) : Except DecodeRefusal Instr :=
  match condOfBits t.cond with
  | none => .error .notInScope
  | some c =>
    if t.cpNum ≠ 15#4 then .error .otherCoprocessor
    else if !RegNum.admitted t.rd then .error .rdIsPc
    else
      match regOfSelector t.sel with
      | some r => .ok (Instr.ofParts t.op r c t.rd)
      | none => if crnMentioned t.sel.crn then .error .undescribedRegister else .error .unknownCp15Encoding

/-- `decode` of R78: the seven steps of R72 in order. -/
def decodeWord (w : Word) : Except DecodeRefusal Instr :=
  if isRegisterTransfer w then decodeTransfer (transferOfWord w) else .error .notInScope

/-- The word of four bytes at ascending addresses, in the byte order of R56. -/
def wordOfBytes (bigEndian : Bool) (b0 b1 b2 b3 : Byte) : Word :=
  if bigEndian then b0 ++ b1 ++ b2 ++ b3 else b3 ++ b2 ++ b1 ++ b0

/-- The four bytes of a word at ascending addresses, in the byte order of R56. -/
def bytesOfWord (bigEndian : Bool) (w : Word) : List Byte :=
  let b := [w.extractLsb' 24 8, w.extractLsb' 16 8, w.extractLsb' 8 8, w.extractLsb' 0 8]
  if bigEndian then b else b.reverse

/-- Decode the first instruction of a list of bytes and return the bytes after it; every instruction is four bytes
long (R77). -/
def decodeBytes : List Byte → Except DecodeRefusal (Instr × List Byte)
  | b0 :: b1 :: b2 :: b3 :: rest =>
    match decodeWord (wordOfBytes Config.instrBigEndian b0 b1 b2 b3) with
    | .ok i => .ok (i, rest)
    | .error e => .error e
  | _ => .error .truncated

/-- The instruction's tuple (R65): cp_num 15 and the register's selector. -/
def transferOf (i : Instr) : Transfer :=
  { op := i.op, cond := condBits i.cond, cpNum := 15#4, sel := selectorOf i.reg, rd := i.rd }

/-- `encode` of R78. -/
def encode (i : Instr) : Word := wordOfTransfer (transferOf i)

/-- The instruction's bytes as memory holds them (R56). -/
def encodeBytes (i : Instr) : List Byte := bytesOfWord Config.instrBigEndian (encode i)

/-- What the decoder reads from an instruction of `nbits` bits `w`, numbered as spec/opcode_table.json numbers them. -/
def decodeTableWord (nbits w : Nat) : Option Instr :=
  match decodeBytes (bytesOfWord Config.instrBigEndian (BitVec.ofNat 32 (w % 2 ^ nbits))) with
  | .ok (i, _) => some i
  | .error _ => none

end Sys2Proof
end

