-- ==== Sys2Proof/Machine/Layout.lean ====
section
/-! DEFINITION. The fields of the eight CP15 registers (spec/10_state.md R15 to R48), in one place, as decisions D8 to D10
of the spec ask: every mask below is computed from these layouts. Positions marked UNVERIFIED stand in a
numbered rule, which marks them as general knowledge (log entries 11 and 12). -/

namespace Sys2Proof.Machine

/-- What software sees of a field. -/
inductive FieldKind where
  /-- `MRC` reads what was stored, `MCR` stores: the `x` fields (R9, D6), and the ACTLR fields of R37. -/
  | readWrite
  /-- SCTLR.NMFI: stored, and written by `MCR` only if `NMFI_WRITABLE` (R20). -/
  | nmfi
  /-- Always reads 1, a write is ignored (R16, R23, R28). -/
  | fixedOne
  /-- Always reads 0, a write is ignored (R18, R19, Domain in R41 and R43). -/
  | fixedZero
  /-- Reads the parameter `RES_*`, a write is ignored (R32, R40, R41, R43, R44). -/
  | reserved
deriving DecidableEq, Repr

/-- A field: its name in the spec, its highest and lowest bit, and its kind. -/
structure BitField where
  name : String
  hi   : Nat
  lo   : Nat
  kind : FieldKind
deriving DecidableEq, Repr

/-- The bits of a field, as a mask. -/
def BitField.mask (f : BitField) : Word := BitVec.ofNat 32 ((2 ^ (f.hi + 1 - f.lo) - 1) * 2 ^ f.lo)

/-- The field's value in a word, in the low bits. -/
def BitField.get (f : BitField) (w : Word) : Word := (w &&& f.mask) >>> f.lo

/-- A value put at the field's place, every other bit 0. -/
def BitField.put (f : BitField) (v : Word) : Word := (v <<< f.lo) &&& f.mask

/-- The bits of the fields of a layout whose kind is one of `kinds`. -/
def layoutMask (kinds : List FieldKind) (fields : List BitField) : Word :=
  fields.foldr (fun f m => if kinds.contains f.kind then f.mask ||| m else m) 0

-- SCTLR (R15). The positions of FI, DZ, C, A, M are UNVERIFIED (D8, D9).
def sctlrIE : BitField := ⟨"IE", 31, 31, .fixedOne⟩
def sctlrTE : BitField := ⟨"TE", 30, 30, .readWrite⟩
def sctlrAFE : BitField := ⟨"AFE", 29, 29, .fixedZero⟩
def sctlrTRE : BitField := ⟨"TRE", 28, 28, .fixedZero⟩
def sctlrNMFI : BitField := ⟨"NMFI", 27, 27, .nmfi⟩
def sctlrEE : BitField := ⟨"EE", 25, 25, .readWrite⟩
def sctlrVE : BitField := ⟨"VE", 24, 24, .readWrite⟩
def sctlrFI : BitField := ⟨"FI", 21, 21, .fixedOne⟩
def sctlrDZ : BitField := ⟨"DZ", 19, 19, .readWrite⟩
def sctlrRR : BitField := ⟨"RR", 14, 14, .readWrite⟩
def sctlrV : BitField := ⟨"V", 13, 13, .readWrite⟩
def sctlrI : BitField := ⟨"I", 12, 12, .readWrite⟩
def sctlrZ : BitField := ⟨"Z", 11, 11, .fixedOne⟩
def sctlrC : BitField := ⟨"C", 2, 2, .readWrite⟩
def sctlrA : BitField := ⟨"A", 1, 1, .readWrite⟩
def sctlrM : BitField := ⟨"M", 0, 0, .readWrite⟩

/-- The fields of SCTLR from bit 31 down (R15 to R32). -/
def sctlrLayout : List BitField :=
  [sctlrIE, sctlrTE, sctlrAFE, sctlrTRE, sctlrNMFI, ⟨"Res", 26, 26, .reserved⟩, sctlrEE, sctlrVE,
   ⟨"Res", 23, 22, .reserved⟩, sctlrFI, ⟨"Res", 20, 20, .reserved⟩, sctlrDZ, ⟨"Res", 18, 16, .reserved⟩]
  ++ [⟨"Res", 15, 15, .reserved⟩, sctlrRR, sctlrV, sctlrI, sctlrZ, ⟨"Res", 10, 3, .reserved⟩, sctlrC, sctlrA, sctlrM]

/-- The fields of ACTLR from bit 31 down (R34 to R40). Bit 6 is DILS and bit 22 DILSM (conflict C1). -/
def actlrLayout : List BitField :=
  [⟨"DICDI", 31, 31, .readWrite⟩, ⟨"DIB2DI", 30, 30, .readWrite⟩, ⟨"DIB1DI", 29, 29, .readWrite⟩,
   ⟨"DIADI", 28, 28, .readWrite⟩, ⟨"D1TCMPCEN", 27, 27, .readWrite⟩, ⟨"D0TCMPCEN", 26, 26, .readWrite⟩,
   ⟨"ITCMPCEN", 25, 25, .readWrite⟩, ⟨"AXISCEN", 24, 24, .readWrite⟩, ⟨"AXISCUEN", 23, 23, .readWrite⟩,
   ⟨"DILSM", 22, 22, .readWrite⟩, ⟨"DEOLP", 21, 21, .readWrite⟩, ⟨"DBHE", 20, 20, .readWrite⟩,
   ⟨"FRCDIS", 19, 19, .readWrite⟩, ⟨"Res", 18, 18, .reserved⟩, ⟨"RSDIS", 17, 17, .readWrite⟩]
  ++ [⟨"BP", 16, 15, .readWrite⟩, ⟨"DBWR", 14, 14, .readWrite⟩, ⟨"DLFO", 13, 13, .readWrite⟩,
   ⟨"ERPEG", 12, 12, .readWrite⟩, ⟨"DNCH", 11, 11, .readWrite⟩, ⟨"FORA", 10, 10, .readWrite⟩,
   ⟨"FWT", 9, 9, .readWrite⟩, ⟨"FDSnS", 8, 8, .readWrite⟩, ⟨"sMOV", 7, 7, .readWrite⟩, ⟨"DILS", 6, 6, .readWrite⟩,
   ⟨"DA", 5, 5, .readWrite⟩, ⟨"HER", 4, 4, .readWrite⟩, ⟨"Res", 3, 3, .reserved⟩, ⟨"D1TCMECEN", 2, 2, .readWrite⟩,
   ⟨"D0TCMECEN", 1, 1, .readWrite⟩, ⟨"ITCMECEN", 0, 0, .readWrite⟩]

-- The fault status registers (R41 to R44). Their positions are UNVERIFIED (D10).
def fsrSD : BitField := ⟨"SD", 12, 12, .readWrite⟩
def fsrRW : BitField := ⟨"RW", 11, 11, .readWrite⟩
def fsrS : BitField := ⟨"S", 10, 10, .readWrite⟩
def fsrDomain : BitField := ⟨"Domain", 7, 4, .fixedZero⟩
def fsrStatus : BitField := ⟨"Status", 3, 0, .readWrite⟩

/-- The fields of DFSR (R41). -/
def dfsrLayout : List BitField :=
  [⟨"Res", 31, 13, .reserved⟩, fsrSD, fsrRW, fsrS, ⟨"Res", 9, 8, .reserved⟩, fsrDomain, fsrStatus]

/-- The fields of IFSR (R43): no RW, bit 11 is reserved. -/
def ifsrLayout : List BitField :=
  [⟨"Res", 31, 13, .reserved⟩, fsrSD, ⟨"Res", 11, 11, .reserved⟩, fsrS, ⟨"Res", 9, 8, .reserved⟩, fsrDomain, fsrStatus]

def auxCacheWay : BitField := ⟨"CacheWay", 27, 24, .readWrite⟩
def auxSide : BitField := ⟨"Side", 23, 22, .readWrite⟩
def auxIndex : BitField := ⟨"Index", 13, 5, .readWrite⟩

/-- The fields of ADFSR and AIFSR (R44). -/
def auxLayout : List BitField :=
  [⟨"Res", 31, 28, .reserved⟩, auxCacheWay, auxSide, ⟨"Res", 21, 14, .reserved⟩, auxIndex, ⟨"Res", 4, 0, .reserved⟩]

/-- The one field of DFAR and of IFAR (R47, R48). -/
def addressLayout : List BitField := [⟨"Address", 31, 0, .readWrite⟩]

/-- `SCTLR_WMASK_ALL` (R33): the eleven `x` fields, NMFI included. -/
def sctlrStored : Word := layoutMask [.readWrite, .nmfi] sctlrLayout

/-- `SCTLR_WMASK` (R33): NMFI only if it is writable. -/
def sctlrWMask (nmfiWritable : Bool) : Word :=
  if nmfiWritable then sctlrStored else layoutMask [.readWrite] sctlrLayout

/-- `SCTLR_ONES` (R33). -/
def sctlrOnes : Word := layoutMask [.fixedOne] sctlrLayout

/-- `SCTLR_ZEROS` (R33). -/
def sctlrZeros : Word := layoutMask [.fixedZero] sctlrLayout

/-- `SCTLR_RES` (R33). -/
def sctlrRes : Word := layoutMask [.reserved] sctlrLayout

/-- `ACTLR_WMASK` (R40). -/
def actlrWMask : Word := layoutMask [.readWrite] actlrLayout

/-- `ACTLR_RES` (R40). -/
def actlrRes : Word := layoutMask [.reserved] actlrLayout

/-- `DFSR_WMASK` (R41). -/
def dfsrWMask : Word := layoutMask [.readWrite] dfsrLayout

/-- `DFSR_RES` (R41). -/
def dfsrRes : Word := layoutMask [.reserved] dfsrLayout

/-- `IFSR_WMASK` (R43). -/
def ifsrWMask : Word := layoutMask [.readWrite] ifsrLayout

/-- `IFSR_RES` (R43). -/
def ifsrRes : Word := layoutMask [.reserved] ifsrLayout

/-- `AxFSR_WMASK` (R44). -/
def auxWMask : Word := layoutMask [.readWrite] auxLayout

/-- `AxFSR_RES` (R44). -/
def auxRes : Word := layoutMask [.reserved] auxLayout

/-- `AxFSR_WMASK` without Index: what hardware writes of AIFSR (R116), and what is kept of it when Index reads 0 (R46). -/
def auxWMaskNoIndex : Word := auxWMask &&& ~~~auxIndex.mask

/-- The write mask of AIFSR (R46). -/
def aifsrWMask (indexRaz : Bool) : Word := if indexRaz then auxWMaskNoIndex else auxWMask

end Sys2Proof.Machine
end

