-- ==== Sys2Proof/Machine/State.lean ====
section
/-! DEFINITION. The state of the machine, as plain data: everything spec/10_state.md section 9 lists, the run's program and
outcome (spec/70_reset_and_hazards.md R137, spec/60_exceptions.md R125), and the environment's schedule; why a step can
stop; and the state after reset (R130 to R133). -/

namespace Sys2Proof.Machine

/-- The condition flags of the CPSR (spec/10_state.md R12). -/
structure Flags where
  n : Bool
  z : Bool
  c : Bool
  v : Bool
deriving DecidableEq, Repr

/-- The exceptions a run can end in (spec/60_exceptions.md R112, R125). -/
inductive TrapKind where
  | undefinedInstruction
  | dataAbort
  | prefetchAbort
  | irq
  | fiq
deriving DecidableEq, Repr

/-- The outcome `Trap(kind, pc)` of R125: `pc` is the address of the instruction that raised, or was about to execute. -/
structure Trap where
  kind : TrapKind
  pc   : Word
deriving DecidableEq, Repr

/-- What an abort event says of the fault (R113, R114). `sd` is given for an external abort only and is otherwise a free
value (R117); `s` and `status` are the uninterpreted cause code. -/
structure FaultCode where
  sd     : Option (BitVec 1)
  s      : BitVec 1
  status : BitVec 4
deriving DecidableEq, Repr

/-- Where a data-side parity or ECC error happened (R45, R118). CacheWay means something for a data cache store only, and
Index is 0 on a TCM access (R46). -/
inductive DataParity where
  | cacheStore (ways : BitVec 4) (index : BitVec 9)
  | cacheOther (index : BitVec 9)
  | itcm
  | dtcm
deriving DecidableEq, Repr

/-- What the environment can do at an instruction boundary: the fault event (R114 to R116) and the interrupt event (R121).
An instruction-side parity or ECC error is given by its source (R45). -/
inductive EnvEvent where
  | preciseDataAbort (addr : Word) (code : FaultCode) (rw : BitVec 1) (parity : Option DataParity)
  | impreciseDataAbort (code : FaultCode) (rw : BitVec 1) (parity : Option DataParity)
  | prefetchAbort (code : FaultCode) (parity : Option ParitySource)
  | irq
  | fiq
deriving DecidableEq, Repr

/-- Memory: address and byte pairs, addresses strictly rising. An address that is not listed holds no value
(spec/20_memory.md R55; log entry 14), so no entry can repeat what an unlisted address reads as. -/
abbrev Memory := List Host.Cell

/-- The canonical form: addresses strictly rising, all within the 32-bit address space (R55). -/
abbrev Memory.wf (m : Memory) : Prop :=
  m.Pairwise (fun x y => x.1 < y.1) ∧ ∀ x ∈ m, x.1 < 2 ^ 32

/-- Everything the spec gives the machine. -/
structure State where
  /-- `R[0]` to `R[14]` (R10). -/
  regs : Vector Word 15
  /-- The address of the instruction being executed, which is also `R[15]` (R10, R11). -/
  pc : Word
  /-- N, Z, C, V (R12). -/
  flags : Flags
  /-- False in User mode, true in every other mode (R110). -/
  privileged : Bool
  /-- The instruction state: true in Thumb state (R75, R133). -/
  thumb : Bool
  /-- The stored word of SCTLR (R33). -/
  sctlr : Word
  /-- The stored word of ACTLR (R40). -/
  actlr : Word
  /-- The stored word of DFSR (R41). -/
  dfsr : Word
  /-- The stored word of IFSR (R43). -/
  ifsr : Word
  /-- The stored word of ADFSR (R44). -/
  adfsr : Word
  /-- The stored word of AIFSR (R44, R46). -/
  aifsr : Word
  /-- DFAR (R47). -/
  dfar : Word
  /-- IFAR (R48). -/
  ifar : Word
  /-- The program text as bytes (R56, R137). -/
  mem : Memory
  /-- The address of the program's first word (R137). -/
  pc0 : Word
  /-- The number of words of the program (R137). -/
  len : Nat
  /-- The exception the run has ended in, if it has (R125). -/
  trap : Option Trap
  /-- `ENV_FAULTS`: whether the environment acts during the run (R125). -/
  envFaults : Bool
  /-- The environment's schedule, the next boundary first; `none` is a boundary without an event (R115, R122). -/
  events : List (Option EnvEvent)
  /-- How many free values have been drawn: the number of the next one (R8). The model's own field. -/
  draws : Nat
deriving DecidableEq, Repr

/-- Why the machine stops without a next state. All are safe: the model says nothing of what the hardware does next. -/
inductive Fault where
  /-- A step asked of a run that has ended normally, one past its last word (R137). Raised by the boundary check. Safe. -/
  | endOfRun
  /-- A step asked of a run that has ended in this exception (R125). Raised by the boundary check. Safe. -/
  | trapped (t : Trap)
  /-- A byte of the program that nothing placed in memory. Raised by the fetch (log entry 14). Safe. -/
  | programByteAbsent (addr : Word)
deriving DecidableEq, Repr

/-- Why the machine gives a state no meaning. All are safe: the model stops where the spec says to refuse. -/
inductive Refusal where
  /-- An instruction of the opcode table without a meaning yet. Raised by no arm of this model. Safe. -/
  | notModelled (mnemonic : String)
  /-- The decoder refuses the word at pc (R72), or a meaning is given an ill-formed instruction (R74). Safe. -/
  | decode (why : DecodeRefusal)
  /-- A Thumb-state program (R75). Raised by the boundary check. Safe. -/
  | thumbState
  /-- `pc` or `pc0` is not a multiple of 4 (R77, R133). Raised by the boundary check. Safe. -/
  | pcMisaligned
  /-- The program's end is past 0xFFFFFFFC (R11). Raised by the boundary check. Safe. -/
  | pcWrap
  /-- `pc` is outside the program and not at its end (R137). Raised by the boundary check. Safe. -/
  | pcLeftProgram
deriving DecidableEq, Repr

/-- The machine right after reset, nothing loaded (R130 to R133; log entries 1 to 6, 15 to 17). -/
def State.reset : State :=
  { regs := Vector.replicate 15 0#32
    pc := 0#32
    flags := { n := false, z := false, c := false, v := false }
    privileged := true
    thumb := false
    sctlr := Config.resetSctlrX &&& sctlrStored &&& ~~~sctlrV.mask
    actlr := Config.resetActlrX &&& actlrWMask
    dfsr := Config.freeValue 0 &&& dfsrWMask
    ifsr := Config.freeValue 1 &&& ifsrWMask
    adfsr := Config.freeValue 2 &&& auxWMask
    aifsr := Config.freeValue 3 &&& aifsrWMask Config.aifsrIndexRaz
    dfar := Config.freeValue 4
    ifar := Config.freeValue 5
    mem := []
    pc0 := 0#32
    len := 0
    trap := none
    envFaults := false
    events := []
    draws := 6 }

end Sys2Proof.Machine
end

