-- ==== Sys2Proof/Machine/Flags.lean ====
section
/-! DEFINITION. The one use the instructions in scope make of the flags: `CondPassed` (spec/30_encoding.md R69). No
instruction in scope writes a flag (spec/10_state.md R12, spec/40_mrc_mcr.md R102). -/

namespace Sys2Proof.Machine

/-- `CondPassed(cond)`: the third column of R69's table, on the flags. -/
def condPassed (c : Cond) (f : Flags) : Bool :=
  match c with
  | .eq => f.z
  | .ne => !f.z
  | .cs => f.c
  | .cc => !f.c
  | .mi => f.n
  | .pl => !f.n
  | .vs => f.v
  | .vc => !f.v
  | .hi => f.c && !f.z
  | .ls => !f.c || f.z
  | .ge => f.n == f.v
  | .lt => f.n != f.v
  | .gt => !f.z && f.n == f.v
  | .le => f.z || f.n != f.v
  | .al => true

end Sys2Proof.Machine
end

