-- ==== Sys2Proof/Machine/Operands.lean ====
section
/-! DEFINITION. The two operands of a transfer: the core register `Rd` (spec/10_state.md R10) and the CP15 register with its
read and write function (R33, R40, R41, R43, R44, R46, R47, R48). A read function takes the parameter `RES_*` as an
argument, so that it can be run at any value of it; the machine gives it the constant of Config. -/

namespace Sys2Proof.Machine

/-- The place of `Rd` in the register file: R0 to R14; 15 has none (R10, R74). -/
def gprIndex (d : RegNum) : Option (Fin 15) := if h : d.toNat < 15 then some ⟨d.toNat, h⟩ else none

/-- `R[i]`. -/
def readGpr (s : State) (i : Fin 15) : Word := s.regs[i]

/-- `R[i] <- v`. -/
def writeGpr (i : Fin 15) (v : Word) (s : State) : State := { s with regs := s.regs.set i v }

/-- The shape of every read function: the stored bits, and the parameter's bits where the register is reserved. -/
def readStored (stored resMask res w : Word) : Word := (w &&& stored) ||| (res &&& resMask)

/-- `read_SCTLR` (R33): the fixed ones are added, the fixed zeros are in no mask. -/
def readSctlr (res w : Word) : Word := (w &&& sctlrStored) ||| sctlrOnes ||| (res &&& sctlrRes)

/-- `write_SCTLR` (R33): the bits outside the mask keep their stored value. -/
def writeSctlr (nmfiWritable : Bool) (w v : Word) : Word :=
  (w &&& ~~~sctlrWMask nmfiWritable) ||| (v &&& sctlrWMask nmfiWritable)

/-- `read_ACTLR` (R40). -/
def readActlr (res w : Word) : Word := readStored actlrWMask actlrRes res w

/-- `write_ACTLR` (R40). -/
def writeActlr (v : Word) : Word := v &&& actlrWMask

/-- `read_DFSR` (R41). -/
def readDfsr (res w : Word) : Word := readStored dfsrWMask dfsrRes res w

/-- `write_DFSR` (R41). -/
def writeDfsr (v : Word) : Word := v &&& dfsrWMask

/-- `read_IFSR` (R43). -/
def readIfsr (res w : Word) : Word := readStored ifsrWMask ifsrRes res w

/-- `write_IFSR` (R43). -/
def writeIfsr (v : Word) : Word := v &&& ifsrWMask

/-- `read_ADFSR` (R44). -/
def readAdfsr (res w : Word) : Word := readStored auxWMask auxRes res w

/-- `write_ADFSR` (R44). -/
def writeAdfsr (v : Word) : Word := v &&& auxWMask

/-- `read_AIFSR` (R44, R46, R92). -/
def readAifsr (indexRaz : Bool) (res w : Word) : Word := readStored (aifsrWMask indexRaz) auxRes res w

/-- `write_AIFSR` (R44, R46, R93). -/
def writeAifsr (indexRaz : Bool) (v : Word) : Word := v &&& aifsrWMask indexRaz

/-- `CP15[name]` as `MRC` reads it. -/
def readCp15 (r : Cp15Reg) (s : State) : Word :=
  match r with
  | .sctlr => readSctlr Config.resSctlr s.sctlr
  | .actlr => readActlr Config.resActlr s.actlr
  | .dfsr => readDfsr Config.resDfsr s.dfsr
  | .ifsr => readIfsr Config.resIfsr s.ifsr
  | .adfsr => readAdfsr Config.resAdfsr s.adfsr
  | .aifsr => readAifsr Config.aifsrIndexRaz Config.resAifsr s.aifsr
  | .dfar => s.dfar
  | .ifar => s.ifar

/-- `CP15[name] <- v` as `MCR` writes it: that register only, through its write function (R58). -/
def writeCp15 (r : Cp15Reg) (v : Word) (s : State) : State :=
  match r with
  | .sctlr => { s with sctlr := writeSctlr Config.nmfiWritable s.sctlr v }
  | .actlr => { s with actlr := writeActlr v }
  | .dfsr => { s with dfsr := writeDfsr v }
  | .ifsr => { s with ifsr := writeIfsr v }
  | .adfsr => { s with adfsr := writeAdfsr v }
  | .aifsr => { s with aifsr := writeAifsr Config.aifsrIndexRaz v }
  | .dfar => { s with dfar := v }
  | .ifar => { s with ifar := v }

end Sys2Proof.Machine
end

