-- ==== Sys2Proof/Machine/Ops.lean ====
section
/-! DEFINITION. The operations the machine is made of: memory, the program counter, free values, taking an exception
(spec/60_exceptions.md R125) and launching its handler's run, latching a fault (R114 to R118), and the two transfers
(spec/40_mrc_mcr.md R80, R81). -/

namespace Sys2Proof.Machine

/-- What a step answers. -/
abbrev Answer := Host.Outcome State Fault Refusal

-- Memory

/-- The byte at an address, if one was placed there. -/
def Memory.read : Memory → Nat → Option Byte
  | [], _ => none
  | (a', b) :: m, a => if a = a' then some b else Memory.read m a

/-- Place a byte at an address, keeping the canonical form. -/
def Memory.write : Memory → Nat → Byte → Memory
  | [], a, b => [(a, b)]
  | (a', b') :: m, a, b =>
    if a < a' then (a, b) :: (a', b') :: m
    else if a = a' then (a, b) :: m
    else (a', b') :: Memory.write m a b

/-- Place bytes at ascending addresses, modulo 2^32. -/
def placeBytes (m : Memory) (a : Word) : List Byte → Memory
  | [] => m
  | b :: bs => placeBytes (m.write a.toNat b) (a + 1#32) bs

/-- Place instruction words at ascending addresses (R137), in the byte order of R56. -/
def placeWords (m : Memory) (a : Word) : List Word → Memory
  | [] => m
  | w :: ws => placeWords (placeBytes m a (bytesOfWord Config.instrBigEndian w)) (a + 4#32) ws

/-- `k` bytes from an address up, or the first address at which there is none. -/
def readBytes (m : Memory) (a : Word) : Nat → Except Word (List Byte)
  | 0 => .ok []
  | k + 1 =>
    match m.read a.toNat with
    | none => .error a
    | some b =>
      match readBytes m (a + 1#32) k with
      | .ok bs => .ok (b :: bs)
      | .error e => .error e

-- The program counter

/-- `pc <- pc + 4` (R11). -/
def advance (s : State) : State := { s with pc := s.pc + 4#32 }

-- Exceptions

/-- `raise kind`: the run ends with `Trap(kind, pc)`, every register, flag and CP15 word as it stands (R125; log entry 13). -/
def raise (k : TrapKind) (s : State) : State := { s with trap := some { kind := k, pc := s.pc } }

/-- A run of the words `ws` at `pc0` from the state `s`: the program replaces any other (R137). -/
def loadProgram (pc0 : Word) (ws : List Word) (s : State) : State :=
  { s with mem := placeWords [] pc0 ws, pc0 := pc0, len := ws.length, pc := pc0 }

/-- The second run, modelling the handler, from the state at a trap: its launch state is that state, privileged, with the
handler's program (R125; log entry 18). -/
def launchHandler (pc0 : Word) (ws : List Word) (s : State) : State :=
  { loadProgram pc0 ws s with privileged := true, trap := none }

-- Free values

/-- `draw(32)` (R8): a value nothing constrains, and the state with the draw counted. -/
def draw (s : State) : Word × State := (Config.freeValue s.draws, { s with draws := s.draws + 1 })

-- The fault event

/-- The SD bit of an abort: given for an external one, a `draw(1)` otherwise (R114, R117). -/
def drawSd (f : FaultCode) (s : State) : BitVec 1 × State :=
  match f.sd with
  | some sd => (sd, s)
  | none => ((draw s).1.setWidth 1, (draw s).2)

/-- The word DFSR latches (R114): Domain is 0. -/
def dfsrWord (sd rw s : BitVec 1) (status : BitVec 4) : Word :=
  fsrSD.put (sd.setWidth 32) ||| fsrRW.put (rw.setWidth 32) ||| fsrS.put (s.setWidth 32) ||| fsrStatus.put (status.setWidth 32)

/-- The word IFSR latches (R116): no RW, Domain is 0. -/
def ifsrWord (sd s : BitVec 1) (status : BitVec 4) : Word :=
  fsrSD.put (sd.setWidth 32) ||| fsrS.put (s.setWidth 32) ||| fsrStatus.put (status.setWidth 32)

/-- The auxiliary word of a parity or ECC error (R118). -/
def auxWord (ways : BitVec 4) (side : BitVec 2) (index : BitVec 9) : Word :=
  auxCacheWay.put (ways.setWidth 32) ||| auxSide.put (side.setWidth 32) ||| auxIndex.put (index.setWidth 32)

/-- The `aux` input of a data abort (R114, R118): CacheWay is drawn unless the error is a data cache store's, Index is 0 for
a TCM, and the whole word is drawn for a fault that is no parity or ECC error. -/
def drawDataAux (p : Option DataParity) (s : State) : Word × State :=
  match p with
  | none => draw s
  | some (.cacheStore ways index) => (auxWord ways (Config.sideCode .cache) index, s)
  | some (.cacheOther index) => (auxWord ((draw s).1.setWidth 4) (Config.sideCode .cache) index, (draw s).2)
  | some .itcm => (auxWord ((draw s).1.setWidth 4) (Config.sideCode .itcm) 0#9, (draw s).2)
  | some .dtcm => (auxWord ((draw s).1.setWidth 4) (Config.sideCode .dtcm) 0#9, (draw s).2)

/-- The `aux` input of a prefetch abort (R116, R118): CacheWay holds no information in AIFSR (R45), Index is 0. -/
def drawInstrAux (p : Option ParitySource) (s : State) : Word × State :=
  match p with
  | none => draw s
  | some side => (auxWord ((draw s).1.setWidth 4) (Config.sideCode side) 0#9, (draw s).2)

/-- DFSR and ADFSR, as both kinds of data abort write them (R114, R115). -/
def latchDataFault (f : FaultCode) (rw : BitVec 1) (p : Option DataParity) (s : State) : State :=
  let (sd, s1) := drawSd f s
  let (aux, s2) := drawDataAux p s1
  { s2 with dfsr := dfsrWord sd rw f.s f.status, adfsr := aux &&& auxWMask }

/-- IFSR and AIFSR, as a prefetch abort writes them (R116). -/
def latchInstrFault (f : FaultCode) (p : Option ParitySource) (s : State) : State :=
  let (sd, s1) := drawSd f s
  let (aux, s2) := drawInstrAux p s1
  { s2 with ifsr := ifsrWord sd f.s f.status, aifsr := aux &&& auxWMaskNoIndex }

/-- What an event of the environment does (R114 to R116, R121). The address of a prefetch abort is that of the instruction
about to execute (log entry 20). -/
def fireEvent (e : EnvEvent) (s : State) : State :=
  match e with
  | .preciseDataAbort a f rw p => raise .dataAbort { latchDataFault f rw p s with dfar := a }
  | .impreciseDataAbort f rw p => raise .dataAbort (latchDataFault f rw p s)
  | .prefetchAbort f p => raise .prefetchAbort { latchInstrFault f p s with ifar := s.pc }
  | .irq => raise .irq s
  | .fiq => raise .fiq s

-- The transfers

/-- Steps 2 and 3 of R80 and R81: the condition, then the privilege, then the transfer `act` on the register `Rd` names.
An ill-formed `Rd` is refused as the decoder refuses it (R74). -/
def guarded (c : Cond) (d : RegNum) (act : Fin 15 → State → State) (s : State) : Answer :=
  match gprIndex d with
  | none => .refused (.decode .rdIsPc)
  | some i =>
    if condPassed c s.flags then
      if s.privileged then .next (advance (act i s)) else .next (raise .undefinedInstruction s)
    else .next (advance s)

/-- `MRC` of a register (R80). -/
def moveToCore (r : Cp15Reg) (c : Cond) (d : RegNum) (s : State) : Answer :=
  guarded c d (fun i s => writeGpr i (readCp15 r s) s) s

/-- `MCR` of a register (R81). -/
def moveToCp15 (r : Cp15Reg) (c : Cond) (d : RegNum) (s : State) : Answer :=
  guarded c d (fun i s => writeCp15 r (readGpr s i) s) s

end Sys2Proof.Machine
end

