-- ==== Sys2Proof/Machine/Mcr.lean ====
section
/-! DEFINITION. The eight `MCR` instructions (spec/40_mrc_mcr.md R81): each writes `Rd` into one CP15 register. -/

namespace Sys2Proof.Machine

/-- `MCR P15, 0, <Rd>, C1, C0, 0`: write SCTLR, the System Control Register (spec/40_mrc_mcr.md R83). -/
def execMcrSctlr (c : Cond) (d : RegNum) (s : State) : Answer := moveToCp15 .sctlr c d s

/-- `MCR P15, 0, <Rd>, C1, C0, 1`: write ACTLR, the Auxiliary Control Register (spec/40_mrc_mcr.md R85). -/
def execMcrActlr (c : Cond) (d : RegNum) (s : State) : Answer := moveToCp15 .actlr c d s

/-- `MCR P15, 0, <Rd>, C5, C0, 0`: write DFSR, the Data Fault Status Register (spec/40_mrc_mcr.md R87). -/
def execMcrDfsr (c : Cond) (d : RegNum) (s : State) : Answer := moveToCp15 .dfsr c d s

/-- `MCR P15, 0, <Rd>, C5, C0, 1`: write IFSR, the Instruction Fault Status Register (spec/40_mrc_mcr.md R89). -/
def execMcrIfsr (c : Cond) (d : RegNum) (s : State) : Answer := moveToCp15 .ifsr c d s

/-- `MCR P15, 0, <Rd>, C5, C1, 0`: write ADFSR, the Auxiliary Data Fault Status Register (spec/40_mrc_mcr.md R91). -/
def execMcrAdfsr (c : Cond) (d : RegNum) (s : State) : Answer := moveToCp15 .adfsr c d s

/-- `MCR P15, 0, <Rd>, C5, C1, 1`: write AIFSR, the Auxiliary Instruction Fault Status Register (spec/40_mrc_mcr.md R93). -/
def execMcrAifsr (c : Cond) (d : RegNum) (s : State) : Answer := moveToCp15 .aifsr c d s

/-- `MCR P15, 0, <Rd>, C6, C0, 0`: write DFAR, the Data Fault Address Register (spec/40_mrc_mcr.md R95). -/
def execMcrDfar (c : Cond) (d : RegNum) (s : State) : Answer := moveToCp15 .dfar c d s

/-- `MCR P15, 0, <Rd>, C6, C0, 2`: write IFAR, the Instruction Fault Address Register (spec/40_mrc_mcr.md R97). -/
def execMcrIfar (c : Cond) (d : RegNum) (s : State) : Answer := moveToCp15 .ifar c d s

end Sys2Proof.Machine
end

