-- ==== Sys2Proof/Machine/Mrc.lean ====
section
/-! DEFINITION. The eight `MRC` instructions (spec/40_mrc_mcr.md R80): each reads one CP15 register into `Rd`. -/

namespace Sys2Proof.Machine

/-- `MRC P15, 0, <Rd>, C1, C0, 0`: read SCTLR, the System Control Register (spec/40_mrc_mcr.md R82). -/
def execMrcSctlr (c : Cond) (d : RegNum) (s : State) : Answer := moveToCore .sctlr c d s

/-- `MRC P15, 0, <Rd>, C1, C0, 1`: read ACTLR, the Auxiliary Control Register (spec/40_mrc_mcr.md R84). -/
def execMrcActlr (c : Cond) (d : RegNum) (s : State) : Answer := moveToCore .actlr c d s

/-- `MRC P15, 0, <Rd>, C5, C0, 0`: read DFSR, the Data Fault Status Register (spec/40_mrc_mcr.md R86). -/
def execMrcDfsr (c : Cond) (d : RegNum) (s : State) : Answer := moveToCore .dfsr c d s

/-- `MRC P15, 0, <Rd>, C5, C0, 1`: read IFSR, the Instruction Fault Status Register (spec/40_mrc_mcr.md R88). -/
def execMrcIfsr (c : Cond) (d : RegNum) (s : State) : Answer := moveToCore .ifsr c d s

/-- `MRC P15, 0, <Rd>, C5, C1, 0`: read ADFSR, the Auxiliary Data Fault Status Register (spec/40_mrc_mcr.md R90). -/
def execMrcAdfsr (c : Cond) (d : RegNum) (s : State) : Answer := moveToCore .adfsr c d s

/-- `MRC P15, 0, <Rd>, C5, C1, 1`: read AIFSR, the Auxiliary Instruction Fault Status Register (spec/40_mrc_mcr.md R92). -/
def execMrcAifsr (c : Cond) (d : RegNum) (s : State) : Answer := moveToCore .aifsr c d s

/-- `MRC P15, 0, <Rd>, C6, C0, 0`: read DFAR, the Data Fault Address Register (spec/40_mrc_mcr.md R94). -/
def execMrcDfar (c : Cond) (d : RegNum) (s : State) : Answer := moveToCore .dfar c d s

/-- `MRC P15, 0, <Rd>, C6, C0, 2`: read IFAR, the Instruction Fault Address Register (spec/40_mrc_mcr.md R96). -/
def execMrcIfar (c : Cond) (d : RegNum) (s : State) : Answer := moveToCore .ifar c d s

end Sys2Proof.Machine
end

