-- ==== Sys2Proof/Machine/Dispatch.lean ====
section
/-! DEFINITION. Which meaning each instruction has: one arm per constructor (spec/30_encoding.md R71). -/

namespace Sys2Proof.Machine

def exec (i : Instr) (s : State) : Host.Outcome State Fault Refusal :=
  match i with
  | .mrcSctlr c d => Sys2Proof.Machine.execMrcSctlr c d s
  | .mcrSctlr c d => Sys2Proof.Machine.execMcrSctlr c d s
  | .mrcActlr c d => Sys2Proof.Machine.execMrcActlr c d s
  | .mcrActlr c d => Sys2Proof.Machine.execMcrActlr c d s
  | .mrcDfsr c d => Sys2Proof.Machine.execMrcDfsr c d s
  | .mcrDfsr c d => Sys2Proof.Machine.execMcrDfsr c d s
  | .mrcIfsr c d => Sys2Proof.Machine.execMrcIfsr c d s
  | .mcrIfsr c d => Sys2Proof.Machine.execMcrIfsr c d s
  | .mrcAdfsr c d => Sys2Proof.Machine.execMrcAdfsr c d s
  | .mcrAdfsr c d => Sys2Proof.Machine.execMcrAdfsr c d s
  | .mrcAifsr c d => Sys2Proof.Machine.execMrcAifsr c d s
  | .mcrAifsr c d => Sys2Proof.Machine.execMcrAifsr c d s
  | .mrcDfar c d => Sys2Proof.Machine.execMrcDfar c d s
  | .mcrDfar c d => Sys2Proof.Machine.execMcrDfar c d s
  | .mrcIfar c d => Sys2Proof.Machine.execMrcIfar c d s
  | .mcrIfar c d => Sys2Proof.Machine.execMcrIfar c d s

end Sys2Proof.Machine
end

