-- ==== Sys2Proof/Machine/Run.lean ====
section
/-! DEFINITION. A run (spec/70_reset_and_hazards.md R133, R137): its launch, what is checked at an instruction boundary, and
fetching the instruction at `pc` (spec/30_encoding.md R77, R78). -/

namespace Sys2Proof.Machine

/-- The eight CP15 words of a launch state that is not the reset state (R132, R137). -/
structure Cp15Words where
  sctlr : Word
  actlr : Word
  dfsr  : Word
  ifsr  : Word
  adfsr : Word
  aifsr : Word
  dfar  : Word
  ifar  : Word
deriving DecidableEq, Repr

/-- The launch of a run: the program and its place, the launch state, and the environment (R133, R137, R125). -/
structure Launch where
  pc0        : Word
  program    : List Word
  privileged : Bool
  thumb      : Bool
  flags      : Flags
  regs       : Vector Word 15
  /-- The CP15 words, or none for those of reset. -/
  cp15       : Option Cp15Words
  envFaults  : Bool
  events     : List (Option EnvEvent)
deriving DecidableEq, Repr

/-- The CP15 words a launch starts from (R137): those given, or the reset values of R130 to R132. -/
def launchCp15 (l : Launch) (s : State) : State :=
  match l.cp15 with
  | none => s
  | some w =>
    { s with sctlr := w.sctlr, actlr := w.actlr, dfsr := w.dfsr, ifsr := w.ifsr, adfsr := w.adfsr, aifsr := w.aifsr,
             dfar := w.dfar, ifar := w.ifar }

/-- The launch state of a run (R137). -/
def launch (l : Launch) : State :=
  loadProgram l.pc0 l.program
    { launchCp15 l State.reset with
      regs := l.regs, flags := l.flags, privileged := l.privileged, thumb := l.thumb,
      envFaults := l.envFaults, events := l.events }

/-- An address that is not a multiple of 4 (R77). -/
def misaligned (a : Word) : Bool := a.extractLsb' 0 2 ≠ 0#2

/-- The address one past the program's last word, as a natural number (R11, R137). -/
def programEnd (s : State) : Nat := s.pc0.toNat + 4 * s.len

/-- The event due at this boundary, if the environment acts and its schedule has one here (R115, R125). -/
def dueEvent (s : State) : Option EnvEvent := if s.envFaults then s.events.headD none else none

/-- The boundary passed: the schedule advances if the environment acts. -/
def passBoundary (s : State) : State := if s.envFaults then { s with events := s.events.tail } else s

/-- What is checked before the next instruction is fetched (R122): whether the run has ended in a trap (R125), is refused
(R75, R77, R11), has ended normally or has left its program (R137), and then whether an event fires (log entry 21). -/
def boundary (s : State) : Host.Outcome (Option EnvEvent) Fault Refusal :=
  match s.trap with
  | some t => .fault (.trapped t)
  | none =>
    if s.thumb then .refused .thumbState
    else if misaligned s.pc || misaligned s.pc0 then .refused .pcMisaligned
    else if 0xFFFFFFFC < programEnd s then .refused .pcWrap
    else if s.pc.toNat = programEnd s then .fault .endOfRun
    else if s.pc.toNat < s.pc0.toNat || programEnd s < s.pc.toNat then .refused .pcLeftProgram
    else .next (dueEvent s)

/-- The instruction at `pc`: its four bytes, decoded (R56, R77, R78). -/
def fetch (s : State) : Host.Outcome Instr Fault Refusal :=
  match readBytes s.mem s.pc 4 with
  | .error a => .fault (.programByteAbsent a)
  | .ok bytes =>
    match decodeBytes bytes with
    | .ok (i, _) => .next i
    | .error why => .refused (.decode why)

/-- The state with one instruction placed as a program of one word at `pc`, ready to run in ARM state with no trap taken
and the environment at rest (log entry 15). -/
def placeAtPc (w : Word) (s : State) : State :=
  { s with
    mem := placeBytes s.mem s.pc (bytesOfWord Config.instrBigEndian w), pc0 := s.pc, len := 1,
    trap := none, thumb := false, envFaults := false }

end Sys2Proof.Machine
end

