-- ==== Sys2Proof/Machine/Step.lean ====
section
/-! DEFINITION. One step of the machine: an instruction boundary, then an event of the environment or one instruction
(spec/40_mrc_mcr.md R80, R81; spec/60_exceptions.md R122). -/

namespace Sys2Proof.Machine

/-- One step. -/
def step (s : State) : Host.Outcome State Fault Refusal :=
  match boundary s with
  | .fault f => .fault f
  | .refused r => .refused r
  | .next (some e) => .next (fireEvent e (passBoundary s))
  | .next none =>
    match fetch s with
    | .fault f => .fault f
    | .refused r => .refused r
    | .next i => exec i (passBoundary s)

/-- `s` with the instruction of `nbits` bits `w`, numbered as spec/opcode_table.json numbers them, where the next step
fetches it (log entry 15). -/
def State.withFetchWord (s : State) (nbits w : Nat) : State := placeAtPc (BitVec.ofNat 32 (w % 2 ^ nbits)) s

end Sys2Proof.Machine
end

