-- ==== Sys2Proof/Safety.lean ====
section
/-! DEFINITION. The words claims about the machine are stated in: the invariant, a state ready to run an instruction, what
two states share, and the spec's tables written out as literals so that a claim does not repeat the model's own tables. -/

namespace Sys2Proof.Machine

/-- What every step keeps: memory in canonical form; `pc` a multiple of 4 (spec/30_encoding.md R77); nothing stored in a
CP15 word outside its write mask (spec/10_state.md R33, R40, R41, R43, R44, R46). -/
structure Inv (s : State) : Prop where
  memWf : s.mem.wf
  pcAligned : s.pc.extractLsb' 0 2 = 0#2
  sctlrStored : s.sctlr &&& 0xB4F78FF8#32 = 0#32
  actlrStored : s.actlr &&& 0x00040008#32 = 0#32
  dfsrStored : s.dfsr &&& 0xFFFFE3F0#32 = 0#32
  ifsrStored : s.ifsr &&& 0xFFFFEBF0#32 = 0#32
  adfsrStored : s.adfsr &&& 0xF03FC01F#32 = 0#32
  aifsrStored : s.aifsr &&& (if Config.aifsrIndexRaz then 0xF03FFFFF#32 else 0xF03FC01F#32) = 0#32

/-- The run goes on at this boundary (R125, R137): ARM state, no trap taken, `pc` at a word of a program that does not wrap. -/
structure Running (s : State) : Prop where
  noTrap : s.trap = none
  armState : s.thumb = false
  pcAligned : s.pc.extractLsb' 0 2 = 0#2
  startAligned : s.pc0.extractLsb' 0 2 = 0#2
  noWrap : s.pc0.toNat + 4 * s.len ≤ 0xFFFFFFFC
  atWord : s.pc0.toNat ≤ s.pc.toNat ∧ s.pc.toNat < s.pc0.toNat + 4 * s.len

/-- No event of the environment is due at this boundary: it does not act, its schedule is empty, or it skips this one. -/
def Quiet (s : State) : Prop := s.envFaults = false ∨ s.events = [] ∨ s.events.head? = some none

/-- The event of the environment that is due at this boundary. -/
def EventDue (s : State) (e : EnvEvent) : Prop := s.envFaults = true ∧ s.events.head? = some (some e)

/-- Two states hold the same eight CP15 words. -/
def SameCp15 (s t : State) : Prop :=
  s.sctlr = t.sctlr ∧ s.actlr = t.actlr ∧ s.dfsr = t.dfsr ∧ s.ifsr = t.ifsr ∧ s.adfsr = t.adfsr ∧ s.aifsr = t.aifsr ∧
    s.dfar = t.dfar ∧ s.ifar = t.ifar

/-- The stored word of a CP15 register. -/
def storedWord (r : Cp15Reg) (s : State) : Word :=
  match r with
  | .sctlr => s.sctlr
  | .actlr => s.actlr
  | .dfsr => s.dfsr
  | .ifsr => s.ifsr
  | .adfsr => s.adfsr
  | .aifsr => s.aifsr
  | .dfar => s.dfar
  | .ifar => s.ifar

/-- What no instruction of the spec changes: the flags, the mode, the instruction state, the program and every byte of
memory, the environment and its schedule, and the count of draws. -/
def SameSurroundings (s t : State) : Prop :=
  s.flags = t.flags ∧ s.privileged = t.privileged ∧ s.thumb = t.thumb ∧ (∀ a, s.mem.read a = t.mem.read a) ∧
    s.mem = t.mem ∧ s.pc0 = t.pc0 ∧ s.len = t.len ∧ s.envFaults = t.envFaults ∧ s.events = t.events ∧ s.draws = t.draws

/-- The state with other CP15 words. -/
def withCp15 (w : Cp15Words) (s : State) : State :=
  { s with sctlr := w.sctlr, actlr := w.actlr, dfsr := w.dfsr, ifsr := w.ifsr, adfsr := w.adfsr, aifsr := w.aifsr,
           dfar := w.dfar, ifar := w.ifar }

/-- An outcome with its next state, if it has one, changed by `f`. -/
def mapNext (f : State → State) : Answer → Answer
  | .next s => .next (f s)
  | .fault r => .fault r
  | .refused r => .refused r

/-- The core register operand R0 to R14 as `Rd` spells it. -/
def gprNum (i : Fin 15) : RegNum := BitVec.ofNat 4 i.val

/-- The eight registers with their tuples (CRn, opc_1, CRm, opc_2): the table of R13, row by row. -/
def describedRegisters : List (Cp15Reg × (Nat × Nat × Nat × Nat)) :=
  [(.sctlr, (1, 0, 0, 0)), (.actlr, (1, 0, 0, 1)), (.dfsr, (5, 0, 0, 0)), (.ifsr, (5, 0, 0, 1)),
   (.adfsr, (5, 0, 1, 0)), (.aifsr, (5, 0, 1, 1)), (.dfar, (6, 0, 0, 0)), (.ifar, (6, 0, 0, 2))]

/-- The tuple a word's fields spell (R67, R68). -/
def tupleOf (w : Word) : Nat × Nat × Nat × Nat :=
  ((w.extractLsb' 16 4).toNat, (w.extractLsb' 21 3).toNat, (w.extractLsb' 0 4).toNat, (w.extractLsb' 5 3).toNat)

/-- What an `MRC` does, whatever its condition and whichever of R0 to R14 it names, given the value it reads: the
register's value into `Rd` and the pc on by 4 (R80); UndefinedInstruction in User mode, nothing else changed (R101); and
only the pc on by 4 if the condition fails (R100). Each case answers a next state. -/
def ReadsInto (mk : Cond → RegNum → Instr) (value : State → Word) : Prop :=
  ∀ (c : Cond) (d : Fin 15) (s : State),
    (condPassed c s.flags = true → s.privileged = true →
      exec (mk c (gprNum d)) s = .next { s with regs := s.regs.set d (value s), pc := s.pc + 4#32 }) ∧
    (condPassed c s.flags = true → s.privileged = false →
      exec (mk c (gprNum d)) s = .next { s with trap := some { kind := .undefinedInstruction, pc := s.pc } }) ∧
    (condPassed c s.flags = false → exec (mk c (gprNum d)) s = .next { s with pc := s.pc + 4#32 })

/-- What an `MCR` does, given the state with the CP15 register written: that state with the pc on by 4 (R81);
UndefinedInstruction in User mode, nothing else changed (R101); and only the pc on by 4 if the condition fails (R100).
Each case answers a next state. -/
def WritesFrom (mk : Cond → RegNum → Instr) (written : Word → State → State) : Prop :=
  ∀ (c : Cond) (d : Fin 15) (s : State),
    (condPassed c s.flags = true → s.privileged = true →
      exec (mk c (gprNum d)) s = .next { written s.regs[d] s with pc := s.pc + 4#32 }) ∧
    (condPassed c s.flags = true → s.privileged = false →
      exec (mk c (gprNum d)) s = .next { s with trap := some { kind := .undefinedInstruction, pc := s.pc } }) ∧
    (condPassed c s.flags = false → exec (mk c (gprNum d)) s = .next { s with pc := s.pc + 4#32 })

/-- The word of an instruction for `Rd` and a condition: the row's word with `Rd` times 0x1000 and the condition's code in
the top hex digit (R71). -/
def rowWord (base : Nat) (c : Cond) (d : Fin 15) : Word :=
  BitVec.ofNat 32 ((condBits c).toNat * 0x10000000 + base + d.val * 0x1000)

/-- The auxiliary word of a data abort (R114, R118): any word for a fault that is no parity or ECC error; else CacheWay, any
four bits unless the error is a data cache store's, the Side bits of the source, and Index, which is 0 for a TCM. -/
def DataAux (p : Option DataParity) (aux : Word) : Prop :=
  let word (ways : BitVec 4) (source : ParitySource) (index : BitVec 9) : Word :=
    ways.setWidth 32 <<< 24 ||| (Config.sideCode source).setWidth 32 <<< 22 ||| index.setWidth 32 <<< 5
  match p with
  | none => True
  | some (.cacheStore ways index) => aux = word ways .cache index
  | some (.cacheOther index) => ∃ ways, aux = word ways .cache index
  | some .itcm => ∃ ways, aux = word ways .itcm 0#9
  | some .dtcm => ∃ ways, aux = word ways .dtcm 0#9

/-- The auxiliary word of a prefetch abort (R116, R118): any word for a fault that is no parity or ECC error; else CacheWay is
any four bits, Side is the source's and Index is 0. -/
def InstrAux (p : Option ParitySource) (aux : Word) : Prop :=
  match p with
  | none => True
  | some source => ∃ ways : BitVec 4, aux = ways.setWidth 32 <<< 24 ||| (Config.sideCode source).setWidth 32 <<< 22

end Sys2Proof.Machine
end

