-- ==== Sys2Proof/Certificates/Slice0/Obligations.lean ====
section
/-! DEFINITION. What is claimed of the machine, one definition per claim; OBLIGATIONS.json lists them. Values are written as
the literals of the spec, not as the model's own masks. The spec marks as its own decision or as general knowledge the A32
formats and the condition table (D3, D4; log entry 23), the bit positions (D8 to D10; log entries 11, 12), the tuple of IFAR
(D25; log entry 10) and the privilege rule (D12; log entry 24); the statements take them as its numbered rules give them. An
exception (R125) shows as the trap recorded in the next state (log entry 13). -/

open Sys2Proof Sys2Proof.Machine

/-! ### Encoding -/

/-- R78 (derived there from the formats): decoding an encoded instruction gives it back, as a word and as bytes in memory's
order, whatever follows. -/
def Obligations.DecodeOfEncodeIsInstruction : Prop :=
  ∀ i : Instr, i.wf = true →
    decodeWord (encode i) = .ok i ∧ ∀ rest : List Byte, decodeBytes (encodeBytes i ++ rest) = .ok (i, rest)

/-- R78 (derived there from the formats): a word that decodes is the word of the instruction it decodes to, and that
instruction is admitted. -/
def Obligations.EncodeOfDecodeIsWord : Prop :=
  ∀ (w : Word) (i : Instr), decodeWord w = .ok i → i.wf = true ∧ encode i = w

/-- R72 (its refusals are decisions D14, D15; log entry 25): the seven steps, each deciding only the words the steps before
it let pass. Step 5 names the row by its direction, register, condition and `Rd`. -/
def Obligations.DecoderFollowsSevenSteps : Prop :=
  ∀ w : Word,
    if w.extractLsb' 24 4 ≠ 0b1110#4 ∨ w.getLsbD 4 = false then decodeWord w = .error .notInScope
    else if w.extractLsb' 28 4 = 15#4 then decodeWord w = .error .notInScope
    else if w.extractLsb' 8 4 ≠ 15#4 then decodeWord w = .error .otherCoprocessor
    else if w.extractLsb' 12 4 = 15#4 then decodeWord w = .error .rdIsPc
    else if tupleOf w ∈ describedRegisters.map Prod.snd then
      ∃ i : Instr, decodeWord w = .ok i ∧ (i.reg, tupleOf w) ∈ describedRegisters ∧
        (i.op = .mrc ↔ w.getLsbD 20 = true) ∧ condBits i.cond = w.extractLsb' 28 4 ∧ i.rd = w.extractLsb' 12 4
    else if (w.extractLsb' 16 4).toNat ∈ [0, 1, 6, 7, 9, 11, 13, 15] then decodeWord w = .error .undescribedRegister
    else decodeWord w = .error .unknownCp15Encoding

/-- R79 (derived there): exactly 3600 words decode, and every other word is refused with one of the names of R72. -/
def Obligations.AdmittedWordsAre3600 : Prop :=
  ∃ ws : List Word, ws.Nodup ∧ ws.length = 3600 ∧ (∀ w, w ∈ ws ↔ ∃ i, decodeWord w = .ok i) ∧
    ∀ w, w ∉ ws →
      ∃ e ∈ [DecodeRefusal.notInScope, .otherCoprocessor, .rdIsPc, .undescribedRegister, .unknownCp15Encoding],
        decodeWord w = .error e

/-- R67, R68, R71 (general knowledge there; log entry 23): words written out from the spec's tables decode to the
instructions they stand for, the last as its bytes, most significant first (R56, decision D19; log entry 14). -/
def Obligations.WrittenWordsDecode : Prop :=
  decodeWord 0xEE110F10#32 = .ok (.mrcSctlr .al 0#4) ∧ decodeWord 0x1E011F30#32 = .ok (.mcrActlr .ne 1#4) ∧
    decodeWord 0xEE11EF10#32 = .ok (.mrcSctlr .al 14#4) ∧ decodeWord 0xEE060F50#32 = .ok (.mcrIfar .al 0#4) ∧
    decodeBytes [0xEE#8, 0x15#8, 0x0F#8, 0x31#8] = .ok (.mrcAifsr .al 0#4, [])

/-- R69 (general knowledge there; log entry 23): the code of each condition and when it passes; 1111 is no condition. -/
def Obligations.ConditionsPassAsTabled : Prop :=
  (∀ p ∈ [(0#4, Cond.eq), (1#4, .ne), (2#4, .cs), (3#4, .cc), (4#4, .mi), (5#4, .pl), (6#4, .vs), (7#4, .vc), (8#4, .hi),
      (9#4, .ls), (10#4, .ge), (11#4, .lt), (12#4, .gt), (13#4, .le), (14#4, .al)],
    condOfBits p.1 = some p.2 ∧ condBits p.2 = p.1) ∧
  condOfBits 15#4 = none ∧
  ∀ f : Flags,
    (condPassed .eq f = true ↔ f.z = true) ∧ (condPassed .ne f = true ↔ f.z = false) ∧
    (condPassed .cs f = true ↔ f.c = true) ∧ (condPassed .cc f = true ↔ f.c = false) ∧
    (condPassed .mi f = true ↔ f.n = true) ∧ (condPassed .pl f = true ↔ f.n = false) ∧
    (condPassed .vs f = true ↔ f.v = true) ∧ (condPassed .vc f = true ↔ f.v = false) ∧
    (condPassed .hi f = true ↔ f.c = true ∧ f.z = false) ∧ (condPassed .ls f = true ↔ f.c = false ∨ f.z = true) ∧
    (condPassed .ge f = true ↔ f.n = f.v) ∧ (condPassed .lt f = true ↔ f.n ≠ f.v) ∧
    (condPassed .gt f = true ↔ f.z = false ∧ f.n = f.v) ∧ (condPassed .le f = true ↔ f.z = true ∨ f.n ≠ f.v) ∧
    condPassed .al f = true

/-- R74 (decision D15; log entry 25): `Rd` = 15 is refused, by the decoder and by every meaning; 13 and 14 are admitted as
plain registers. -/
def Obligations.RdFifteenIsRefused : Prop :=
  (∀ (i : Instr) (s : State), i.rd = 15#4 → exec i s = .refused (.decode .rdIsPc)) ∧
  (∀ w : Word, w.extractLsb' 24 4 = 0b1110#4 → w.getLsbD 4 = true → w.extractLsb' 28 4 ≠ 15#4 →
    w.extractLsb' 8 4 = 15#4 → w.extractLsb' 12 4 = 15#4 → decodeWord w = .error .rdIsPc) ∧
  ∀ i : Instr, i.rd = 13#4 ∨ i.rd = 14#4 → decodeWord (encode i) = .ok i

/-- R73: a transfer of another coprocessor is refused by name. -/
def Obligations.OtherCoprocessorIsRefused : Prop :=
  ∀ w : Word, w.extractLsb' 24 4 = 0b1110#4 → w.getLsbD 4 = true → w.extractLsb' 28 4 ≠ 15#4 →
    w.extractLsb' 8 4 ≠ 15#4 → decodeWord w = .error .otherCoprocessor

/-- R98: a CP15 place the source knows nothing of is refused by name when a step fetches it, whatever the flags and the mode
are: the refusal comes before the condition is tested. -/
def Obligations.UnknownPlaceIsRefusedAtDecode : Prop :=
  ∀ (s : State) (w : Word), Running s → Quiet s → readBytes s.mem s.pc 4 = .ok (bytesOfWord true w) →
    w.extractLsb' 24 4 = 0b1110#4 → w.getLsbD 4 = true → w.extractLsb' 28 4 ≠ 15#4 → w.extractLsb' 8 4 = 15#4 →
    w.extractLsb' 12 4 ≠ 15#4 → tupleOf w ∉ describedRegisters.map Prod.snd →
    (w.extractLsb' 16 4).toNat ∈ [2, 3, 4, 5, 8, 10, 12, 14] →
    step s = .refused (.decode .unknownCp15Encoding)

/-- R99 (decision D14; log entry 25): a place beside those Table 4-1 mentions is refused by its own name, likewise. -/
def Obligations.UndescribedPlaceIsRefusedAtDecode : Prop :=
  ∀ (s : State) (w : Word), Running s → Quiet s → readBytes s.mem s.pc 4 = .ok (bytesOfWord true w) →
    w.extractLsb' 24 4 = 0b1110#4 → w.getLsbD 4 = true → w.extractLsb' 28 4 ≠ 15#4 → w.extractLsb' 8 4 = 15#4 →
    w.extractLsb' 12 4 ≠ 15#4 → tupleOf w ∉ describedRegisters.map Prod.snd →
    (w.extractLsb' 16 4).toNat ∈ [0, 1, 6, 7, 9, 11, 13, 15] →
    step s = .refused (.decode .undescribedRegister)

/-! ### The sixteen instructions: each completes with its result, traps in User mode, and is skipped by a failed condition -/

/-- R82: `MRC` of SCTLR gives `Rd` its read value; its word is row 1 of R71. -/
def Obligations.MrcSctlrReadsSctlr : Prop :=
  ReadsInto .mrcSctlr (fun s =>
      (s.sctlr &&& 0x4B087007#32) ||| 0x80200800#32 ||| (Config.resSctlr &&& 0x04D787F8#32)) ∧
    ∀ (c : Cond) (d : Fin 15), encode (.mrcSctlr c (gprNum d)) = rowWord 0x0E110F10 c d

/-- R83: `MCR` of SCTLR stores the writable bits of `Rd`; its word is row 2 of R71. -/
def Obligations.McrSctlrWritesSctlr : Prop :=
  WritesFrom .mcrSctlr (fun v s =>
      { s with sctlr :=
        if Config.nmfiWritable then (s.sctlr &&& ~~~0x4B087007#32) ||| (v &&& 0x4B087007#32)
        else (s.sctlr &&& ~~~0x43087007#32) ||| (v &&& 0x43087007#32) }) ∧
    ∀ (c : Cond) (d : Fin 15), encode (.mcrSctlr c (gprNum d)) = rowWord 0x0E010F10 c d

/-- R84: `MRC` of ACTLR gives `Rd` its read value; its word is row 3 of R71. -/
def Obligations.MrcActlrReadsActlr : Prop :=
  ReadsInto .mrcActlr (fun s =>
      (s.actlr &&& 0xFFFBFFF7#32) ||| (Config.resActlr &&& 0x00040008#32)) ∧
    ∀ (c : Cond) (d : Fin 15), encode (.mrcActlr c (gprNum d)) = rowWord 0x0E110F30 c d

/-- R85: `MCR` of ACTLR stores the writable bits of `Rd`; its word is row 4 of R71. -/
def Obligations.McrActlrWritesActlr : Prop :=
  WritesFrom .mcrActlr (fun v s =>
      { s with actlr := v &&& 0xFFFBFFF7#32 }) ∧
    ∀ (c : Cond) (d : Fin 15), encode (.mcrActlr c (gprNum d)) = rowWord 0x0E010F30 c d

/-- R86: `MRC` of DFSR gives `Rd` its read value; its word is row 5 of R71. -/
def Obligations.MrcDfsrReadsDfsr : Prop :=
  ReadsInto .mrcDfsr (fun s =>
      (s.dfsr &&& 0x00001C0F#32) ||| (Config.resDfsr &&& 0xFFFFE300#32)) ∧
    ∀ (c : Cond) (d : Fin 15), encode (.mrcDfsr c (gprNum d)) = rowWord 0x0E150F10 c d

/-- R87: `MCR` of DFSR stores the writable bits of `Rd`; its word is row 6 of R71. -/
def Obligations.McrDfsrWritesDfsr : Prop :=
  WritesFrom .mcrDfsr (fun v s =>
      { s with dfsr := v &&& 0x00001C0F#32 }) ∧
    ∀ (c : Cond) (d : Fin 15), encode (.mcrDfsr c (gprNum d)) = rowWord 0x0E050F10 c d

/-- R88: `MRC` of IFSR gives `Rd` its read value; its word is row 7 of R71. -/
def Obligations.MrcIfsrReadsIfsr : Prop :=
  ReadsInto .mrcIfsr (fun s =>
      (s.ifsr &&& 0x0000140F#32) ||| (Config.resIfsr &&& 0xFFFFEB00#32)) ∧
    ∀ (c : Cond) (d : Fin 15), encode (.mrcIfsr c (gprNum d)) = rowWord 0x0E150F30 c d

/-- R89: `MCR` of IFSR stores the writable bits of `Rd`; its word is row 8 of R71. -/
def Obligations.McrIfsrWritesIfsr : Prop :=
  WritesFrom .mcrIfsr (fun v s =>
      { s with ifsr := v &&& 0x0000140F#32 }) ∧
    ∀ (c : Cond) (d : Fin 15), encode (.mcrIfsr c (gprNum d)) = rowWord 0x0E050F30 c d

/-- R90: `MRC` of ADFSR gives `Rd` its read value; its word is row 9 of R71. -/
def Obligations.MrcAdfsrReadsAdfsr : Prop :=
  ReadsInto .mrcAdfsr (fun s =>
      (s.adfsr &&& 0x0FC03FE0#32) ||| (Config.resAdfsr &&& 0xF03FC01F#32)) ∧
    ∀ (c : Cond) (d : Fin 15), encode (.mrcAdfsr c (gprNum d)) = rowWord 0x0E150F11 c d

/-- R91: `MCR` of ADFSR stores the writable bits of `Rd`; its word is row 10 of R71. -/
def Obligations.McrAdfsrWritesAdfsr : Prop :=
  WritesFrom .mcrAdfsr (fun v s =>
      { s with adfsr := v &&& 0x0FC03FE0#32 }) ∧
    ∀ (c : Cond) (d : Fin 15), encode (.mcrAdfsr c (gprNum d)) = rowWord 0x0E050F11 c d

/-- R92: `MRC` of AIFSR gives `Rd` its read value, and after a prefetch abort Index reads 0; its word is row 11 of R71. -/
def Obligations.MrcAifsrReadsAifsr : Prop :=
  ReadsInto .mrcAifsr (fun s =>
      (s.aifsr &&& (if Config.aifsrIndexRaz then 0x0FC00000#32 else 0x0FC03FE0#32)) |||
        (Config.resAifsr &&& 0xF03FC01F#32)) ∧
    (∀ (f : FaultCode) (p : Option ParitySource) (s : State),
      readCp15 .aifsr (fireEvent (.prefetchAbort f p) s) &&& 0x00003FE0#32 = 0#32) ∧
    ∀ (c : Cond) (d : Fin 15), encode (.mrcAifsr c (gprNum d)) = rowWord 0x0E150F31 c d

/-- R93: `MCR` of AIFSR stores the writable bits of `Rd`; its word is row 12 of R71. -/
def Obligations.McrAifsrWritesAifsr : Prop :=
  WritesFrom .mcrAifsr (fun v s =>
      { s with aifsr := v &&& (if Config.aifsrIndexRaz then 0x0FC00000#32 else 0x0FC03FE0#32) }) ∧
    ∀ (c : Cond) (d : Fin 15), encode (.mcrAifsr c (gprNum d)) = rowWord 0x0E050F31 c d

/-- R94: `MRC` of DFAR gives `Rd` its read value, and an imprecise data abort leaves what it reads; its word is row 13 of
R71. -/
def Obligations.MrcDfarReadsDfar : Prop :=
  ReadsInto .mrcDfar (fun s =>
      s.dfar) ∧
    (∀ (f : FaultCode) (rw : BitVec 1) (p : Option DataParity) (s : State),
      readCp15 .dfar (fireEvent (.impreciseDataAbort f rw p) s) = readCp15 .dfar s) ∧
    ∀ (c : Cond) (d : Fin 15), encode (.mrcDfar c (gprNum d)) = rowWord 0x0E160F10 c d

/-- R95: `MCR` of DFAR stores the writable bits of `Rd`; its word is row 14 of R71. -/
def Obligations.McrDfarWritesDfar : Prop :=
  WritesFrom .mcrDfar (fun v s =>
      { s with dfar := v }) ∧
    ∀ (c : Cond) (d : Fin 15), encode (.mcrDfar c (gprNum d)) = rowWord 0x0E060F10 c d

/-- R96: `MRC` of IFAR gives `Rd` its read value, and the slide's own line for it reads AIFSR; its word is row 15 of R71. -/
def Obligations.MrcIfarReadsIfar : Prop :=
  ReadsInto .mrcIfar (fun s =>
      s.ifar) ∧
    decodeWord 0xEE150F31#32 = .ok (.mrcAifsr .al 0#4) ∧
    ∀ (c : Cond) (d : Fin 15), encode (.mrcIfar c (gprNum d)) = rowWord 0x0E160F50 c d

/-- R97: `MCR` of IFAR stores the writable bits of `Rd`; its word is row 16 of R71. -/
def Obligations.McrIfarWritesIfar : Prop :=
  WritesFrom .mcrIfar (fun v s =>
      { s with ifar := v }) ∧
    ∀ (c : Cond) (d : Fin 15), encode (.mcrIfar c (gprNum d)) = rowWord 0x0E060F50 c d

/-! ### All sixteen together -/

/-- R100 (decision D3; log entry 24): when the condition fails nothing but the pc changes, whatever the mode. -/
def Obligations.FailedConditionOnlyAdvances : Prop :=
  ∀ (i : Instr) (s : State), i.wf = true → condPassed i.cond s.flags = false →
    exec i s = .next { s with pc := s.pc + 4#32 }

/-- R101 (decision D12; log entry 24): in User mode with a passing condition no transfer is made and UndefinedInstruction is
raised at `pc`. -/
def Obligations.UserModeAccessIsUndefined : Prop :=
  ∀ (i : Instr) (s : State), i.wf = true → condPassed i.cond s.flags = true → s.privileged = false →
    exec i s = .next { s with trap := some { kind := .undefinedInstruction, pc := s.pc } }

/-- The frame of the eight `MRC`: at most `Rd` changes among the registers; no CP15 word, no flag, no byte of memory; the
trap record only by the User-mode exception. -/
def Obligations.MrcFrame : Prop :=
  ∀ (i : Instr) (s t : State), i.op = .mrc → exec i s = .next t →
    (∀ k : Fin 15, gprNum k ≠ i.rd → t.regs[k] = s.regs[k]) ∧ SameCp15 s t ∧ SameSurroundings s t ∧
    (t.trap = s.trap ∨ (s.privileged = false ∧ condPassed i.cond s.flags = true ∧ t.regs = s.regs))

/-- The frame of the eight `MCR`: at most the named CP15 word changes; no general register, no flag, no byte of memory; the
trap record only by the User-mode exception. -/
def Obligations.McrFrame : Prop :=
  ∀ (i : Instr) (s t : State), i.op = .mcr → exec i s = .next t →
    t.regs = s.regs ∧ (∀ r : Cp15Reg, r ≠ i.reg → storedWord r t = storedWord r s ∧ readCp15 r t = readCp15 r s) ∧
    SameSurroundings s t ∧
    (t.trap = s.trap ∨ (s.privileged = false ∧ condPassed i.cond s.flags = true ∧ SameCp15 s t))

/-- R61 (decision D18; log entry 27): an `MRC` after an `MCR` of the same register reads the written value as the register's
masks keep it. -/
def Obligations.ReadAfterWriteGivesKeptBits : Prop :=
  ∀ (c c' : Cond) (d d' : Fin 15) (s : State),
    condPassed c s.flags = true → condPassed c' s.flags = true → s.privileged = true →
    ∀ p ∈ [
      (Instr.mcrSctlr c (gprNum d), Instr.mrcSctlr c' (gprNum d'),
        (if Config.nmfiWritable then s.regs[d] &&& 0x4B087007#32
          else (s.regs[d] &&& 0x43087007#32) ||| (s.sctlr &&& 0x08000000#32)) ||| 0x80200800#32 |||
          (Config.resSctlr &&& 0x04D787F8#32)),
      (.mcrActlr c (gprNum d), .mrcActlr c' (gprNum d'),
        (s.regs[d] &&& 0xFFFBFFF7#32) ||| (Config.resActlr &&& 0x00040008#32)),
      (.mcrDfsr c (gprNum d), .mrcDfsr c' (gprNum d'),
        (s.regs[d] &&& 0x00001C0F#32) ||| (Config.resDfsr &&& 0xFFFFE300#32)),
      (.mcrIfsr c (gprNum d), .mrcIfsr c' (gprNum d'),
        (s.regs[d] &&& 0x0000140F#32) ||| (Config.resIfsr &&& 0xFFFFEB00#32)),
      (.mcrAdfsr c (gprNum d), .mrcAdfsr c' (gprNum d'),
        (s.regs[d] &&& 0x0FC03FE0#32) ||| (Config.resAdfsr &&& 0xF03FC01F#32)),
      (.mcrAifsr c (gprNum d), .mrcAifsr c' (gprNum d'),
        (s.regs[d] &&& (if Config.aifsrIndexRaz then 0x0FC00000#32 else 0x0FC03FE0#32)) |||
          (Config.resAifsr &&& 0xF03FC01F#32)),
      (.mcrDfar c (gprNum d), .mrcDfar c' (gprNum d'), s.regs[d]),
      (.mcrIfar c (gprNum d), .mrcIfar c' (gprNum d'), s.regs[d])],
      ∃ t u, exec p.1 s = .next t ∧ exec p.2.1 t = .next u ∧ u.regs[d'] = p.2.2 ∧ u.pc = s.pc + 8#32

/-- R58 (decision D18; log entry 27): a transfer done twice over in a privileged mode leaves what doing it once leaves, but
for the pc. -/
def Obligations.RepeatedTransferChangesNothing : Prop :=
  ∀ (i : Instr) (s : State), i.wf = true → s.privileged = true →
    ∃ t, exec i s = .next t ∧ exec i t = .next { t with pc := t.pc + 4#32 }

/-- R18, R19: a read of SCTLR gives AFE and TRE as 0, and a write of any value completes and does not change that. -/
def Obligations.SctlrAlwaysZeroFields : Prop :=
  ∀ (c : Cond) (d : Fin 15) (s : State), condPassed c s.flags = true → s.privileged = true →
    ∃ t u v, exec (.mrcSctlr c (gprNum d)) s = .next t ∧
      exec (.mcrSctlr c (gprNum d)) s = .next u ∧ exec (.mrcSctlr c (gprNum d)) u = .next v ∧
      ∀ x ∈ [t.regs[d], v.regs[d]], x.getLsbD 29 = false ∧ x.getLsbD 28 = false

/-- R16, R23, R28 (the position of FI is decision D8; log entry 11): likewise IE, FI and Z are 1. -/
def Obligations.SctlrAlwaysOneFields : Prop :=
  ∀ (c : Cond) (d : Fin 15) (s : State), condPassed c s.flags = true → s.privileged = true →
    ∃ t u v, exec (.mrcSctlr c (gprNum d)) s = .next t ∧
      exec (.mcrSctlr c (gprNum d)) s = .next u ∧ exec (.mrcSctlr c (gprNum d)) u = .next v ∧
      ∀ x ∈ [t.regs[d], v.regs[d]], x.getLsbD 31 = true ∧ x.getLsbD 21 = true ∧ x.getLsbD 11 = true

/-- R41, R43 (its place is decision D10; log entry 12): Domain reads 0000 in DFSR and IFSR, whatever was written. -/
def Obligations.DomainReadsZero : Prop :=
  ∀ (c : Cond) (d : Fin 15) (s : State), condPassed c s.flags = true → s.privileged = true →
    ∃ t u, exec (.mrcDfsr c (gprNum d)) s = .next t ∧ (t.regs[d]).extractLsb' 4 4 = 0#4 ∧
      exec (.mrcIfsr c (gprNum d)) s = .next u ∧ (u.regs[d]).extractLsb' 4 4 = 0#4

/-! ### A step -/

/-- R80 and R81 step 1: when the bytes at `pc` decode to an instruction and no event is due, the step is that instruction on
the state with this boundary's entry of the schedule passed. -/
def Obligations.StepRunsDecodedInstruction : Prop :=
  ∀ (s : State) (bytes : List Byte) (i : Instr), Running s → Quiet s →
    readBytes s.mem s.pc 4 = .ok bytes → decodeBytes bytes = .ok (i, []) →
    step s = exec i { s with events := if s.envFaults then s.events.tail else s.events }

/-- R56, R77, R78 (decision D19; log entry 14): the four bytes of an instruction's word, most significant first from `pc`
up, are that instruction to the step. -/
def Obligations.BigEndianWordAtPcRuns : Prop :=
  ∀ (s : State) (i : Instr), i.wf = true → Running s → s.envFaults = false →
    s.mem.read s.pc.toNat = some ((encode i).extractLsb' 24 8) →
    s.mem.read (s.pc + 1#32).toNat = some ((encode i).extractLsb' 16 8) →
    s.mem.read (s.pc + 2#32).toNat = some ((encode i).extractLsb' 8 8) →
    s.mem.read (s.pc + 3#32).toNat = some ((encode i).extractLsb' 0 8) →
    step s = exec i s

/-- R125 (that the next step is a fault is the model's choice, log entry 13): a run that has ended in a trap has no further
step. -/
def Obligations.TrapEndsTheRun : Prop :=
  ∀ (s : State) (t : Trap), s.trap = some t → step s = .fault (.trapped t)

/-- R75, R77, R11 (decisions D22, D2; their order, and that each step checks them, are the model's, log entry 21): a
Thumb-state program, a misaligned one, and one that would run past 0xFFFFFFFC are refused by name. -/
def Obligations.BadProgramsAreRefused : Prop :=
  ∀ s : State, s.trap = none →
    if s.thumb = true then step s = .refused .thumbState
    else if s.pc.extractLsb' 0 2 ≠ 0#2 ∨ s.pc0.extractLsb' 0 2 ≠ 0#2 then step s = .refused .pcMisaligned
    else 0xFFFFFFFC < s.pc0.toNat + 4 * s.len → step s = .refused .pcWrap

/-- R137 (that the end shows as a fault of the next step is the model's choice, log entry 15): one past the last word the
run has ended; elsewhere outside the program it is refused. -/
def Obligations.RunEndsAtProgramEnd : Prop :=
  ∀ s : State, s.trap = none → s.thumb = false → s.pc.extractLsb' 0 2 = 0#2 → s.pc0.extractLsb' 0 2 = 0#2 →
    s.pc0.toNat + 4 * s.len ≤ 0xFFFFFFFC →
    if s.pc.toNat = s.pc0.toNat + 4 * s.len then step s = .fault .endOfRun
    else s.pc.toNat < s.pc0.toNat ∨ s.pc0.toNat + 4 * s.len < s.pc.toNat → step s = .refused .pcLeftProgram

/-- A privileged step at a word that decodes always completes: no trap, the pc on by 4. -/
def Obligations.PrivilegedStepCompletes : Prop :=
  ∀ (s : State) (bytes : List Byte) (i : Instr), Running s → Quiet s → s.privileged = true →
    readBytes s.mem s.pc 4 = .ok bytes → decodeBytes bytes = .ok (i, []) →
    ∃ t, step s = .next t ∧ t.trap = none ∧ t.pc = s.pc + 4#32 ∧ t.privileged = true

/-- R125: with no event due, a step takes no exception but the User-mode UndefinedInstruction, at its own `pc`. -/
def Obligations.QuietStepTrapsOnlyInUserMode : Prop :=
  ∀ s t : State, Quiet s → step s = .next t →
    (t.trap = none ∧ t.pc = s.pc + 4#32) ∨
    (s.privileged = false ∧ t.trap = some { kind := .undefinedInstruction, pc := s.pc } ∧ t.pc = s.pc)

/-! ### The environment's events -/

/-- R114, R118 (positions: log entry 12; the Side code is a free value, log entry 19): a precise data abort writes DFSR,
DFAR and ADFSR and ends the run; SD is the event's for an external abort and any bit otherwise. -/
def Obligations.PreciseDataAbortLatches : Prop :=
  ∀ (s : State) (a : Word) (f : FaultCode) (rw : BitVec 1) (p : Option DataParity),
    Running s → EventDue s (.preciseDataAbort a f rw p) →
    ∃ (sd : BitVec 1) (aux : Word) (k : Nat), (∀ b, f.sd = some b → sd = b) ∧ DataAux p aux ∧
      step s = .next { s with
        dfsr := sd.setWidth 32 <<< 12 ||| rw.setWidth 32 <<< 11 ||| f.s.setWidth 32 <<< 10 ||| f.status.setWidth 32
        dfar := a
        adfsr := aux &&& 0x0FC03FE0#32
        trap := some { kind := .dataAbort, pc := s.pc }
        events := s.events.tail
        draws := k }

/-- R115, R118 (log entries 12, 19): an imprecise data abort does the same but leaves DFAR. -/
def Obligations.ImpreciseDataAbortKeepsDfar : Prop :=
  ∀ (s : State) (f : FaultCode) (rw : BitVec 1) (p : Option DataParity),
    Running s → EventDue s (.impreciseDataAbort f rw p) →
    ∃ (sd : BitVec 1) (aux : Word) (k : Nat), (∀ b, f.sd = some b → sd = b) ∧ DataAux p aux ∧
      step s = .next { s with
        dfsr := sd.setWidth 32 <<< 12 ||| rw.setWidth 32 <<< 11 ||| f.s.setWidth 32 <<< 10 ||| f.status.setWidth 32
        adfsr := aux &&& 0x0FC03FE0#32
        trap := some { kind := .dataAbort, pc := s.pc }
        events := s.events.tail
        draws := k }

/-- R116, R118 (log entries 12, 19): a prefetch abort writes IFSR, IFAR and AIFSR (Index 0) and ends the run; the
instruction at `pc` is not executed. That IFAR is `pc` is DEDUCED (log entry 20). -/
def Obligations.PrefetchAbortLatches : Prop :=
  ∀ (s : State) (f : FaultCode) (p : Option ParitySource), Running s → EventDue s (.prefetchAbort f p) →
    ∃ (sd : BitVec 1) (aux : Word) (k : Nat), (∀ b, f.sd = some b → sd = b) ∧ InstrAux p aux ∧
      step s = .next { s with
        ifsr := sd.setWidth 32 <<< 12 ||| f.s.setWidth 32 <<< 10 ||| f.status.setWidth 32
        ifar := s.pc
        aifsr := aux &&& 0x0FC00000#32
        trap := some { kind := .prefetchAbort, pc := s.pc }
        events := s.events.tail
        draws := k }

/-- R121 (when it comes is the schedule's, log entry 16): an interrupt writes no CP15 register and ends the run. -/
def Obligations.InterruptEndsTheRun : Prop :=
  ∀ s : State, Running s →
    (EventDue s .irq → step s = .next { s with trap := some { kind := .irq, pc := s.pc }, events := s.events.tail }) ∧
    (EventDue s .fiq → step s = .next { s with trap := some { kind := .fiq, pc := s.pc }, events := s.events.tail })

/-- R125, R137 (that it is one operation on the trapped state is the model's choice, log entry 18; byte order, log entry
14): the handler's run starts from the state at the trap, privileged, with the handler as its program: every register, flag
and CP15 word is carried over, the handler's words lie at `a` up unless they would wrap, and from an aligned `a`, in ARM
state, the run can go on. -/
def Obligations.HandlerRunStartsFromTrapState : Prop :=
  ∀ (s : State) (t : Trap) (a : Word) (ws : List Word), s.trap = some t →
    ((launchHandler a ws s).trap = none ∧ (launchHandler a ws s).privileged = true ∧
      (launchHandler a ws s).regs = s.regs ∧ (launchHandler a ws s).flags = s.flags ∧
      SameCp15 s (launchHandler a ws s) ∧
      (launchHandler a ws s).pc = a ∧ (launchHandler a ws s).pc0 = a ∧ (launchHandler a ws s).len = ws.length ∧
      (launchHandler a ws s).mem.wf) ∧
    (a.toNat + 4 * ws.length ≤ 0xFFFFFFFC → ∀ (k : Nat) (hk : k < ws.length),
      readBytes (launchHandler a ws s).mem (a + BitVec.ofNat 32 (4 * k)) 4 = .ok (bytesOfWord true ws[k])) ∧
    (s.thumb = false → ws ≠ [] → a.extractLsb' 0 2 = 0#2 → a.toNat + 4 * ws.length ≤ 0xFFFFFFFC →
      Running (launchHandler a ws s))

/-- R137, R56 (decision D19; log entry 14): a launch gives the program's place and length, the mode, the flags and the
general registers as it says, the CP15 words as it says or else those of reset, no trap, and the environment as it says;
each word lies at its place from `pc0` up unless the program would wrap, most significant byte first; and from an aligned
`pc0`, in ARM state, the run can go on at the first word. -/
def Obligations.LaunchPlacesProgram : Prop :=
  ∀ l : Launch,
    ((launch l).pc = l.pc0 ∧ (launch l).pc0 = l.pc0 ∧ (launch l).len = l.program.length ∧ (launch l).mem.wf ∧
      (launch l).privileged = l.privileged ∧ (launch l).thumb = l.thumb ∧ (launch l).flags = l.flags ∧
      (launch l).regs = l.regs ∧ (launch l).trap = none ∧
      (launch l).envFaults = l.envFaults ∧ (launch l).events = l.events) ∧
    (l.cp15 = none → SameCp15 State.reset (launch l)) ∧
    (∀ w : Cp15Words, l.cp15 = some w →
      (launch l).sctlr = w.sctlr ∧ (launch l).actlr = w.actlr ∧ (launch l).dfsr = w.dfsr ∧ (launch l).ifsr = w.ifsr ∧
        (launch l).adfsr = w.adfsr ∧ (launch l).aifsr = w.aifsr ∧ (launch l).dfar = w.dfar ∧ (launch l).ifar = w.ifar) ∧
    (l.pc0.toNat + 4 * l.program.length ≤ 0xFFFFFFFC → ∀ (k : Nat) (hk : k < l.program.length),
      readBytes (launch l).mem (l.pc0 + BitVec.ofNat 32 (4 * k)) 4 = .ok (bytesOfWord true l.program[k])) ∧
    (l.thumb = false → l.program ≠ [] → l.pc0.extractLsb' 0 2 = 0#2 →
      l.pc0.toNat + 4 * l.program.length ≤ 0xFFFFFFFC → Running (launch l))

/-! ### The whole machine -/

/-- Every step keeps the invariant, from every state that has it. -/
def Obligations.StepKeepsInvariant : Prop := ∀ s t : State, Inv s → step s = .next t → Inv t

/-- The reset state has the invariant. -/
def Obligations.ResetHasInvariant : Prop := Inv State.reset

/-- R110, R12, R63 (decisions D12, D20): no step changes the mode, the instruction state, the flags, the program or any byte
of memory. -/
def Obligations.StepKeepsModeFlagsAndProgram : Prop :=
  ∀ s t : State, step s = .next t →
    t.privileged = s.privileged ∧ t.thumb = s.thumb ∧ t.flags = s.flags ∧ t.pc0 = s.pc0 ∧ t.len = s.len ∧
      t.envFaults = s.envFaults ∧ t.mem = s.mem ∧ ∀ a, t.mem.read a = s.mem.read a

/-- R20 (decision D6; log entry 8): the stored NMFI bit never changes unless `NMFI_WRITABLE`. -/
def Obligations.NmfiKeepsItsResetValue : Prop :=
  ∀ s t : State, step s = .next t → Config.nmfiWritable = true ∨ t.sctlr.getLsbD 27 = s.sctlr.getLsbD 27

/-- 60_exceptions.md section 3: a CP15 word changes only by an event of the environment or by a privileged `MCR` of that
register whose condition passes, the instruction fetched by this step. -/
def Obligations.OnlyMcrAndEventsWriteCp15 : Prop :=
  ∀ (s t : State) (r : Cp15Reg), step s = .next t → storedWord r t ≠ storedWord r s →
    (∃ e, EventDue s e ∧ r ∉ [Cp15Reg.sctlr, .actlr]) ∨
    (∃ i, fetch s = .next i ∧ i.op = .mcr ∧ i.reg = r ∧ s.privileged = true ∧ condPassed i.cond s.flags = true)

/-- In User mode, with no event due, a step changes no general register and no CP15 word: it skips or it traps. -/
def Obligations.UserModeChangesNothing : Prop :=
  ∀ s t : State, s.privileged = false → Quiet s → step s = .next t →
    t.regs = s.regs ∧ SameCp15 s t ∧
      ((t.pc = s.pc + 4#32 ∧ t.trap = none) ∨
        (t.pc = s.pc ∧ t.trap = some { kind := .undefinedInstruction, pc := s.pc }))

/-- In User mode, with no event due, nothing a step does depends on the CP15 words: changing them all changes the outcome in
those words alone. -/
def Obligations.UserModeLearnsNothingOfCp15 : Prop :=
  ∀ (s : State) (w : Cp15Words), s.privileged = false → Quiet s →
    step (withCp15 w s) = mapNext (withCp15 w) (step s)

/-- R14 (decision D21; log entry 26): no bit of SCTLR or ACTLR decides the outcome of a step: with any other words there,
the step faults, refuses or completes alike, at the same pc, with the same trap, fault registers, flags and schedule. -/
def Obligations.ControlBitsDecideNoOutcome : Prop :=
  ∀ (s : State) (x y : Word),
    match step s, step { s with sctlr := x, actlr := y } with
    | .next t, .next u =>
      u.pc = t.pc ∧ u.trap = t.trap ∧ u.flags = t.flags ∧ u.privileged = t.privileged ∧ u.mem = t.mem ∧
        u.events = t.events ∧ u.dfsr = t.dfsr ∧ u.ifsr = t.ifsr ∧ u.adfsr = t.adfsr ∧ u.aifsr = t.aifsr ∧
        u.dfar = t.dfar ∧ u.ifar = t.ifar
    | .fault f, .fault g => f = g
    | .refused f, .refused g => f = g
    | _, _ => False

/-! ### Reset -/

/-- R130, R131 (decision D17; log entries 5, 7): what SCTLR and ACTLR hold, and a read of each gives, after reset; on TMS570
bit 13 of the parameter is 0. -/
def Obligations.ResetReadsOfControlRegisters : Prop :=
  ∃ x : Word, x.getLsbD 13 = false ∧ (∀ k < 32, k ≠ 13 → x.getLsbD k = Config.resetSctlrX.getLsbD k) ∧
    State.reset.sctlr = x &&& 0x4B087007#32 ∧
    readCp15 .sctlr State.reset = (x &&& 0x4B087007#32) ||| 0x80200800#32 ||| (Config.resSctlr &&& 0x04D787F8#32) ∧
    State.reset.actlr = Config.resetActlrX &&& 0xFFFBFFF7#32 ∧
    readCp15 .actlr State.reset = (Config.resetActlrX &&& 0xFFFBFFF7#32) ||| (Config.resActlr &&& 0x00040008#32)

/-- R132 (decision D17): after reset each fault register holds a draw of its own under its write mask, and a read with no
write before it gives that draw and the reserved bits of the parameter. The numbering of the draws is the model's (log entry
6). -/
def Obligations.ResetFaultRegistersAreDraws : Prop :=
  readCp15 .dfsr State.reset = (Config.freeValue 0 &&& 0x00001C0F#32) ||| (Config.resDfsr &&& 0xFFFFE300#32) ∧
    readCp15 .ifsr State.reset = (Config.freeValue 1 &&& 0x0000140F#32) ||| (Config.resIfsr &&& 0xFFFFEB00#32) ∧
    readCp15 .adfsr State.reset = (Config.freeValue 2 &&& 0x0FC03FE0#32) ||| (Config.resAdfsr &&& 0xF03FC01F#32) ∧
    readCp15 .aifsr State.reset =
      (Config.freeValue 3 &&& (if Config.aifsrIndexRaz then 0x0FC00000#32 else 0x0FC03FE0#32)) |||
        (Config.resAifsr &&& 0xF03FC01F#32) ∧
    readCp15 .dfar State.reset = Config.freeValue 4 ∧ readCp15 .ifar State.reset = Config.freeValue 5

/-- R133 as the model takes it (log entries 1 to 4, 15, 16): privileged, ARM state, pc 0, flags and registers 0, nothing
loaded, no trap, the environment at rest. -/
def Obligations.ResetCoreState : Prop :=
  State.reset.privileged = true ∧ State.reset.thumb = false ∧ State.reset.pc = 0#32 ∧ State.reset.pc0 = 0#32 ∧
    State.reset.flags = { n := false, z := false, c := false, v := false } ∧
    (∀ k : Fin 15, State.reset.regs[k] = 0#32) ∧ State.reset.mem = [] ∧ State.reset.len = 0 ∧
    State.reset.trap = none ∧ State.reset.envFaults = false ∧ State.reset.events = [] ∧
    step State.reset = .fault .endOfRun
end

