-- ==== Sys2Proof/Laws/Decode.lean ====
section
/-! SUPPORT. The small laws of the encoding: every field of a word is read back from where it was put. -/

namespace Sys2Proof

@[simp] theorem condOfBits_condBits (c : Cond) : condOfBits (condBits c) = some c := by cases c <;> rfl

/-- A code that is a condition's is that condition's code. -/
theorem condBits_of_condOfBits {b : BitVec 4} {c : Cond} (h : condOfBits b = some c) : condBits c = b := by
  revert c; revert b; decide +revert

theorem condOfBits_eq_none_iff (b : BitVec 4) : condOfBits b = none ↔ b = 15#4 := by revert b; decide

@[simp] theorem regOfSelector_selectorOf (r : Cp15Reg) : regOfSelector (selectorOf r) = some r := by cases r <;> decide

/-- A tuple that selects a register is that register's tuple. -/
theorem selectorOf_of_regOfSelector {t : Selector} {r : Cp15Reg} (h : regOfSelector t = some r) : selectorOf r = t := by
  have := List.find?_some h
  simpa using this

@[simp] theorem ofParts_parts (i : Instr) : Instr.ofParts i.op i.reg i.cond i.rd = i := by cases i <;> rfl

@[simp] theorem ofParts_op (o : Op) (r : Cp15Reg) (c : Cond) (d : RegNum) : (Instr.ofParts o r c d).op = o := by
  cases o <;> cases r <;> rfl
@[simp] theorem ofParts_reg (o : Op) (r : Cp15Reg) (c : Cond) (d : RegNum) : (Instr.ofParts o r c d).reg = r := by
  cases o <;> cases r <;> rfl
@[simp] theorem ofParts_cond (o : Op) (r : Cp15Reg) (c : Cond) (d : RegNum) : (Instr.ofParts o r c d).cond = c := by
  cases o <;> cases r <;> rfl
@[simp] theorem ofParts_rd (o : Op) (r : Cp15Reg) (c : Cond) (d : RegNum) : (Instr.ofParts o r c d).rd = d := by
  cases o <;> cases r <;> rfl

@[simp] theorem opOfBit_opBit (o : Op) : opOfBit ((opBit o).getLsbD 0) = o := by cases o <;> rfl

/-- The bits of a tuple's word, field by field. -/
theorem getLsbD_wordOfTransfer (t : Transfer) (i : Nat) :
    (wordOfTransfer t).getLsbD i =
      if i < 4 then t.sel.crm.getLsbD i
      else if i < 5 then true
      else if i < 8 then t.sel.opc2.getLsbD (i - 5)
      else if i < 12 then t.cpNum.getLsbD (i - 8)
      else if i < 16 then t.rd.getLsbD (i - 12)
      else if i < 20 then t.sel.crn.getLsbD (i - 16)
      else if i < 21 then t.op = .mrc
      else if i < 24 then t.sel.opc1.getLsbD (i - 21)
      else if i < 28 then (0b1110#4).getLsbD (i - 24)
      else t.cond.getLsbD (i - 28) := by
  change ((t.cond ++ 0b1110#4 ++ t.sel.opc1 ++ opBit t.op ++ t.sel.crn ++ t.rd ++ t.cpNum ++ t.sel.opc2 ++ 1#1 ++
    t.sel.crm : BitVec (4 + 4 + 3 + 1 + 4 + 4 + 4 + 3 + 1 + 4))).getLsbD i = _
  have hop : ∀ k, (opBit t.op).getLsbD k = (decide (k = 0) && decide (t.op = .mrc)) := by
    intro k; cases t.op <;> cases k <;> simp [opBit]
  simp only [BitVec.getLsbD_append, hop]
  by_cases h : i < 32
  · interval_cases i <;> simp
  · have e : ∀ n, n ≤ 32 → ¬ i < n := fun n hn hi => h (lt_of_lt_of_le hi hn)
    simp only [e 4 (by decide), e 5 (by decide), e 8 (by decide), e 12 (by decide), e 16 (by decide), e 20 (by decide),
      e 21 (by decide), e 24 (by decide), e 28 (by decide)]
    have hc : t.cond.getLsbD (i - 28) = false := BitVec.getLsbD_of_ge _ _ (by omega)
    simp only [hc]
    repeat' split
    all_goals first | rfl | omega

/-- The word of a tuple is that of a register transfer: 1110 and bit 4 (R67, R68). -/
theorem isRegisterTransfer_wordOfTransfer (t : Transfer) : isRegisterTransfer (wordOfTransfer t) = true := by
  have h : (wordOfTransfer t).extractLsb' 24 4 = 0b1110#4 := by
    refine BitVec.eq_of_getLsbD_eq fun i hi => ?_
    rw [BitVec.getLsbD_extractLsb', getLsbD_wordOfTransfer]
    interval_cases i <;> simp
  simp only [isRegisterTransfer, h, getLsbD_wordOfTransfer]
  simp

/-- The fields of a tuple's word are the tuple: each field occupies its own bits (R78). -/
theorem transferOfWord_wordOfTransfer (t : Transfer) : transferOfWord (wordOfTransfer t) = t := by
  have hop : opOfBit ((wordOfTransfer t).getLsbD 20) = t.op := by
    rw [getLsbD_wordOfTransfer]; cases h : t.op <;> simp [opOfBit]
  obtain ⟨op, cond, cpNum, ⟨crn, opc1, crm, opc2⟩, rd⟩ := t
  simp only [transferOfWord, hop, Transfer.mk.injEq, Selector.mk.injEq, true_and]
  refine ⟨?_, ?_, ⟨?_, ?_, ?_, ?_⟩, ?_⟩ <;> refine BitVec.eq_of_getLsbD_eq fun i hi => ?_ <;>
    rw [BitVec.getLsbD_extractLsb', getLsbD_wordOfTransfer] <;> interval_cases i <;> simp

/-- A register transfer's word is the word of its fields. -/
theorem wordOfTransfer_transferOfWord (w : Word) (h : isRegisterTransfer w = true) :
    wordOfTransfer (transferOfWord w) = w := by
  simp only [isRegisterTransfer, Bool.and_eq_true, beq_iff_eq] at h
  have hb : ∀ k < 4, w.getLsbD (24 + k) = (0b1110#4).getLsbD k := fun k hk => by
    rw [← h.1, BitVec.getLsbD_extractLsb']; simp [hk]
  have hop : decide ((transferOfWord w).op = .mrc) = w.getLsbD 20 := by
    cases hw : w.getLsbD 20 <;> simp only [transferOfWord, hw] <;> rfl
  refine BitVec.eq_of_getLsbD_eq fun i hi => ?_
  rw [getLsbD_wordOfTransfer]
  split_ifs with h4 h5 h8 h12 h16 h20 h21 h24 h28
  · simp [transferOfWord, h4]
  · obtain rfl : i = 4 := by omega
    exact h.2.symm
  · simp only [transferOfWord, BitVec.getLsbD_extractLsb']
    simp [show i - 5 < 3 by omega, show 5 + (i - 5) = i by omega]
  · simp only [transferOfWord, BitVec.getLsbD_extractLsb']
    simp [show i - 8 < 4 by omega, show 8 + (i - 8) = i by omega]
  · simp only [transferOfWord, BitVec.getLsbD_extractLsb']
    simp [show i - 12 < 4 by omega, show 12 + (i - 12) = i by omega]
  · simp only [transferOfWord, BitVec.getLsbD_extractLsb']
    simp [show i - 16 < 4 by omega, show 16 + (i - 16) = i by omega]
  · obtain rfl : i = 20 := by omega
    exact hop
  · simp only [transferOfWord, BitVec.getLsbD_extractLsb']
    simp [show i - 21 < 3 by omega, show 21 + (i - 21) = i by omega]
  · rw [← hb (i - 24) (by omega), show 24 + (i - 24) = i by omega]
  · simp only [transferOfWord, BitVec.getLsbD_extractLsb']
    simp [show i - 28 < 4 by omega, show 28 + (i - 28) = i by omega]

/-- The four bytes of a word, put together again, are the word. -/
theorem bytes_append (w : Word) :
    wordOfBytes true (w.extractLsb' 24 8) (w.extractLsb' 16 8) (w.extractLsb' 8 8) (w.extractLsb' 0 8) = w := by
  refine BitVec.eq_of_getLsbD_eq fun i hi => ?_
  change ((w.extractLsb' 24 8 ++ w.extractLsb' 16 8 ++ w.extractLsb' 8 8 ++ w.extractLsb' 0 8 :
    BitVec (8 + 8 + 8 + 8))).getLsbD i = _
  simp only [BitVec.getLsbD_append, BitVec.getLsbD_extractLsb']
  interval_cases i <;> simp

/-- Decoding the bytes of a word in memory's order decodes the word (R56). -/
theorem decodeBytes_bytesOfWord (w : Word) (rest : List Byte) :
    decodeBytes (bytesOfWord Config.instrBigEndian w ++ rest) =
      match decodeWord w with
      | .ok i => .ok (i, rest)
      | .error e => .error e := by
  change (match decodeWord (wordOfBytes true (w.extractLsb' 24 8) (w.extractLsb' 16 8) (w.extractLsb' 8 8)
    (w.extractLsb' 0 8)) with | .ok i => .ok (i, rest) | .error e => .error e : Except DecodeRefusal (Instr × List Byte)) = _
  rw [bytes_append]

end Sys2Proof
end

