-- ==== Sys2Proof/Laws/Layout.lean ====
section
/-! SUPPORT. The masks computed from the layouts are the masks of spec/10_state.md R33, R40, R41, R43, R44 and R46. -/

namespace Sys2Proof.Machine

theorem sctlrStored_eq : sctlrStored = 0x4B087007#32 := by decide
theorem sctlrWMask_eq (b : Bool) : sctlrWMask b = if b then 0x4B087007#32 else 0x43087007#32 := by cases b <;> decide
theorem sctlrOnes_eq : sctlrOnes = 0x80200800#32 := by decide
theorem sctlrZeros_eq : sctlrZeros = 0x30000000#32 := by decide
theorem sctlrRes_eq : sctlrRes = 0x04D787F8#32 := by decide
theorem sctlrV_mask_eq : sctlrV.mask = 0x00002000#32 := by decide
theorem actlrWMask_eq : actlrWMask = 0xFFFBFFF7#32 := by decide
theorem actlrRes_eq : actlrRes = 0x00040008#32 := by decide
theorem dfsrWMask_eq : dfsrWMask = 0x00001C0F#32 := by decide
theorem dfsrRes_eq : dfsrRes = 0xFFFFE300#32 := by decide
theorem ifsrWMask_eq : ifsrWMask = 0x0000140F#32 := by decide
theorem ifsrRes_eq : ifsrRes = 0xFFFFEB00#32 := by decide
theorem auxWMask_eq : auxWMask = 0x0FC03FE0#32 := by decide
theorem auxRes_eq : auxRes = 0xF03FC01F#32 := by decide
theorem auxWMaskNoIndex_eq : auxWMaskNoIndex = 0x0FC00000#32 := by decide
theorem aifsrWMask_eq (b : Bool) : aifsrWMask b = if b then 0x0FC00000#32 else 0x0FC03FE0#32 := by cases b <;> decide

/-- The bits of two fields of a layout never overlap, and together the fields are the whole register. -/
def layoutCovers (fields : List BitField) : Bool :=
  (fields.foldr (fun f m => f.mask ||| m) 0#32 == 0xFFFFFFFF#32) &&
    (fields.foldr (fun f n => f.hi + 1 - f.lo + n) 0 == 32)

/-- Each of the layouts names every bit once (the union of the masks is the whole word, the widths add up to 32). -/
theorem layouts_cover :
    [sctlrLayout, actlrLayout, dfsrLayout, ifsrLayout, auxLayout, addressLayout].all layoutCovers = true := by decide

/-- A word masked twice by one mask is masked once. -/
theorem and_mask_idem (v m : Word) : v &&& m &&& m = v &&& m := by rw [BitVec.and_assoc, BitVec.and_self]

/-- A write mask applied a second time over its own result changes nothing. -/
theorem writeSctlr_idem (b : Bool) (w v : Word) : writeSctlr b (writeSctlr b w v) v = writeSctlr b w v := by
  unfold writeSctlr
  ext i
  simp only [BitVec.getElem_or, BitVec.getElem_and, BitVec.getElem_not]
  cases (sctlrWMask b)[i] <;> simp

end Sys2Proof.Machine
end

