-- ==== Sys2Proof/Laws/State.lean ====
section
/-! SUPPORT. What each update of the state does to each field, one lemma per field, so that no later proof unfolds a record
update. -/

namespace Sys2Proof.Machine

@[simp] theorem writeGpr_regs (i : Fin 15) (v : Word) (s : State) : (writeGpr i v s).regs = s.regs.set i v := rfl
@[simp] theorem writeGpr_pc (i : Fin 15) (v : Word) (s : State) : (writeGpr i v s).pc = s.pc := rfl
@[simp] theorem writeGpr_flags (i : Fin 15) (v : Word) (s : State) : (writeGpr i v s).flags = s.flags := rfl
@[simp] theorem writeGpr_privileged (i : Fin 15) (v : Word) (s : State) : (writeGpr i v s).privileged = s.privileged := rfl
@[simp] theorem writeGpr_thumb (i : Fin 15) (v : Word) (s : State) : (writeGpr i v s).thumb = s.thumb := rfl
@[simp] theorem writeGpr_sctlr (i : Fin 15) (v : Word) (s : State) : (writeGpr i v s).sctlr = s.sctlr := rfl
@[simp] theorem writeGpr_actlr (i : Fin 15) (v : Word) (s : State) : (writeGpr i v s).actlr = s.actlr := rfl
@[simp] theorem writeGpr_dfsr (i : Fin 15) (v : Word) (s : State) : (writeGpr i v s).dfsr = s.dfsr := rfl
@[simp] theorem writeGpr_ifsr (i : Fin 15) (v : Word) (s : State) : (writeGpr i v s).ifsr = s.ifsr := rfl
@[simp] theorem writeGpr_adfsr (i : Fin 15) (v : Word) (s : State) : (writeGpr i v s).adfsr = s.adfsr := rfl
@[simp] theorem writeGpr_aifsr (i : Fin 15) (v : Word) (s : State) : (writeGpr i v s).aifsr = s.aifsr := rfl
@[simp] theorem writeGpr_dfar (i : Fin 15) (v : Word) (s : State) : (writeGpr i v s).dfar = s.dfar := rfl
@[simp] theorem writeGpr_ifar (i : Fin 15) (v : Word) (s : State) : (writeGpr i v s).ifar = s.ifar := rfl
@[simp] theorem writeGpr_mem (i : Fin 15) (v : Word) (s : State) : (writeGpr i v s).mem = s.mem := rfl
@[simp] theorem writeGpr_pc0 (i : Fin 15) (v : Word) (s : State) : (writeGpr i v s).pc0 = s.pc0 := rfl
@[simp] theorem writeGpr_len (i : Fin 15) (v : Word) (s : State) : (writeGpr i v s).len = s.len := rfl
@[simp] theorem writeGpr_trap (i : Fin 15) (v : Word) (s : State) : (writeGpr i v s).trap = s.trap := rfl
@[simp] theorem writeGpr_envFaults (i : Fin 15) (v : Word) (s : State) : (writeGpr i v s).envFaults = s.envFaults := rfl
@[simp] theorem writeGpr_events (i : Fin 15) (v : Word) (s : State) : (writeGpr i v s).events = s.events := rfl
@[simp] theorem writeGpr_draws (i : Fin 15) (v : Word) (s : State) : (writeGpr i v s).draws = s.draws := rfl

@[simp] theorem advance_regs (s : State) : (advance s).regs = s.regs := rfl
@[simp] theorem advance_pc (s : State) : (advance s).pc = s.pc + 4#32 := rfl
@[simp] theorem advance_flags (s : State) : (advance s).flags = s.flags := rfl
@[simp] theorem advance_privileged (s : State) : (advance s).privileged = s.privileged := rfl
@[simp] theorem advance_thumb (s : State) : (advance s).thumb = s.thumb := rfl
@[simp] theorem advance_sctlr (s : State) : (advance s).sctlr = s.sctlr := rfl
@[simp] theorem advance_actlr (s : State) : (advance s).actlr = s.actlr := rfl
@[simp] theorem advance_dfsr (s : State) : (advance s).dfsr = s.dfsr := rfl
@[simp] theorem advance_ifsr (s : State) : (advance s).ifsr = s.ifsr := rfl
@[simp] theorem advance_adfsr (s : State) : (advance s).adfsr = s.adfsr := rfl
@[simp] theorem advance_aifsr (s : State) : (advance s).aifsr = s.aifsr := rfl
@[simp] theorem advance_dfar (s : State) : (advance s).dfar = s.dfar := rfl
@[simp] theorem advance_ifar (s : State) : (advance s).ifar = s.ifar := rfl
@[simp] theorem advance_mem (s : State) : (advance s).mem = s.mem := rfl
@[simp] theorem advance_pc0 (s : State) : (advance s).pc0 = s.pc0 := rfl
@[simp] theorem advance_len (s : State) : (advance s).len = s.len := rfl
@[simp] theorem advance_trap (s : State) : (advance s).trap = s.trap := rfl
@[simp] theorem advance_envFaults (s : State) : (advance s).envFaults = s.envFaults := rfl
@[simp] theorem advance_events (s : State) : (advance s).events = s.events := rfl
@[simp] theorem advance_draws (s : State) : (advance s).draws = s.draws := rfl

@[simp] theorem raise_regs (k : TrapKind) (s : State) : (raise k s).regs = s.regs := rfl
@[simp] theorem raise_pc (k : TrapKind) (s : State) : (raise k s).pc = s.pc := rfl
@[simp] theorem raise_flags (k : TrapKind) (s : State) : (raise k s).flags = s.flags := rfl
@[simp] theorem raise_privileged (k : TrapKind) (s : State) : (raise k s).privileged = s.privileged := rfl
@[simp] theorem raise_thumb (k : TrapKind) (s : State) : (raise k s).thumb = s.thumb := rfl
@[simp] theorem raise_sctlr (k : TrapKind) (s : State) : (raise k s).sctlr = s.sctlr := rfl
@[simp] theorem raise_actlr (k : TrapKind) (s : State) : (raise k s).actlr = s.actlr := rfl
@[simp] theorem raise_dfsr (k : TrapKind) (s : State) : (raise k s).dfsr = s.dfsr := rfl
@[simp] theorem raise_ifsr (k : TrapKind) (s : State) : (raise k s).ifsr = s.ifsr := rfl
@[simp] theorem raise_adfsr (k : TrapKind) (s : State) : (raise k s).adfsr = s.adfsr := rfl
@[simp] theorem raise_aifsr (k : TrapKind) (s : State) : (raise k s).aifsr = s.aifsr := rfl
@[simp] theorem raise_dfar (k : TrapKind) (s : State) : (raise k s).dfar = s.dfar := rfl
@[simp] theorem raise_ifar (k : TrapKind) (s : State) : (raise k s).ifar = s.ifar := rfl
@[simp] theorem raise_mem (k : TrapKind) (s : State) : (raise k s).mem = s.mem := rfl
@[simp] theorem raise_pc0 (k : TrapKind) (s : State) : (raise k s).pc0 = s.pc0 := rfl
@[simp] theorem raise_len (k : TrapKind) (s : State) : (raise k s).len = s.len := rfl
@[simp] theorem raise_trap (k : TrapKind) (s : State) : (raise k s).trap = some { kind := k, pc := s.pc } := rfl
@[simp] theorem raise_envFaults (k : TrapKind) (s : State) : (raise k s).envFaults = s.envFaults := rfl
@[simp] theorem raise_events (k : TrapKind) (s : State) : (raise k s).events = s.events := rfl
@[simp] theorem raise_draws (k : TrapKind) (s : State) : (raise k s).draws = s.draws := rfl

@[simp] theorem passBoundary_regs (s : State) : (passBoundary s).regs = s.regs := by unfold passBoundary; split <;> rfl
@[simp] theorem passBoundary_pc (s : State) : (passBoundary s).pc = s.pc := by unfold passBoundary; split <;> rfl
@[simp] theorem passBoundary_flags (s : State) : (passBoundary s).flags = s.flags := by unfold passBoundary; split <;> rfl
@[simp] theorem passBoundary_privileged (s : State) : (passBoundary s).privileged = s.privileged := by unfold passBoundary; split <;> rfl
@[simp] theorem passBoundary_thumb (s : State) : (passBoundary s).thumb = s.thumb := by unfold passBoundary; split <;> rfl
@[simp] theorem passBoundary_sctlr (s : State) : (passBoundary s).sctlr = s.sctlr := by unfold passBoundary; split <;> rfl
@[simp] theorem passBoundary_actlr (s : State) : (passBoundary s).actlr = s.actlr := by unfold passBoundary; split <;> rfl
@[simp] theorem passBoundary_dfsr (s : State) : (passBoundary s).dfsr = s.dfsr := by unfold passBoundary; split <;> rfl
@[simp] theorem passBoundary_ifsr (s : State) : (passBoundary s).ifsr = s.ifsr := by unfold passBoundary; split <;> rfl
@[simp] theorem passBoundary_adfsr (s : State) : (passBoundary s).adfsr = s.adfsr := by unfold passBoundary; split <;> rfl
@[simp] theorem passBoundary_aifsr (s : State) : (passBoundary s).aifsr = s.aifsr := by unfold passBoundary; split <;> rfl
@[simp] theorem passBoundary_dfar (s : State) : (passBoundary s).dfar = s.dfar := by unfold passBoundary; split <;> rfl
@[simp] theorem passBoundary_ifar (s : State) : (passBoundary s).ifar = s.ifar := by unfold passBoundary; split <;> rfl
@[simp] theorem passBoundary_mem (s : State) : (passBoundary s).mem = s.mem := by unfold passBoundary; split <;> rfl
@[simp] theorem passBoundary_pc0 (s : State) : (passBoundary s).pc0 = s.pc0 := by unfold passBoundary; split <;> rfl
@[simp] theorem passBoundary_len (s : State) : (passBoundary s).len = s.len := by unfold passBoundary; split <;> rfl
@[simp] theorem passBoundary_trap (s : State) : (passBoundary s).trap = s.trap := by unfold passBoundary; split <;> rfl
@[simp] theorem passBoundary_envFaults (s : State) : (passBoundary s).envFaults = s.envFaults := by unfold passBoundary; split <;> rfl
@[simp] theorem passBoundary_events (s : State) : (passBoundary s).events = if s.envFaults then s.events.tail else s.events := by unfold passBoundary; split <;> rfl
@[simp] theorem passBoundary_draws (s : State) : (passBoundary s).draws = s.draws := by unfold passBoundary; split <;> rfl

@[simp] theorem writeCp15_regs (r : Cp15Reg) (v : Word) (s : State) : (writeCp15 r v s).regs = s.regs := by cases r <;> rfl
@[simp] theorem writeCp15_pc (r : Cp15Reg) (v : Word) (s : State) : (writeCp15 r v s).pc = s.pc := by cases r <;> rfl
@[simp] theorem writeCp15_flags (r : Cp15Reg) (v : Word) (s : State) : (writeCp15 r v s).flags = s.flags := by cases r <;> rfl
@[simp] theorem writeCp15_privileged (r : Cp15Reg) (v : Word) (s : State) : (writeCp15 r v s).privileged = s.privileged := by cases r <;> rfl
@[simp] theorem writeCp15_thumb (r : Cp15Reg) (v : Word) (s : State) : (writeCp15 r v s).thumb = s.thumb := by cases r <;> rfl
@[simp] theorem writeCp15_mem (r : Cp15Reg) (v : Word) (s : State) : (writeCp15 r v s).mem = s.mem := by cases r <;> rfl
@[simp] theorem writeCp15_pc0 (r : Cp15Reg) (v : Word) (s : State) : (writeCp15 r v s).pc0 = s.pc0 := by cases r <;> rfl
@[simp] theorem writeCp15_len (r : Cp15Reg) (v : Word) (s : State) : (writeCp15 r v s).len = s.len := by cases r <;> rfl
@[simp] theorem writeCp15_trap (r : Cp15Reg) (v : Word) (s : State) : (writeCp15 r v s).trap = s.trap := by cases r <;> rfl
@[simp] theorem writeCp15_envFaults (r : Cp15Reg) (v : Word) (s : State) : (writeCp15 r v s).envFaults = s.envFaults := by cases r <;> rfl
@[simp] theorem writeCp15_events (r : Cp15Reg) (v : Word) (s : State) : (writeCp15 r v s).events = s.events := by cases r <;> rfl
@[simp] theorem writeCp15_draws (r : Cp15Reg) (v : Word) (s : State) : (writeCp15 r v s).draws = s.draws := by cases r <;> rfl

@[simp] theorem loadProgram_regs (a : Word) (ws : List Word) (s : State) : (loadProgram a ws s).regs = s.regs := rfl
@[simp] theorem loadProgram_pc (a : Word) (ws : List Word) (s : State) : (loadProgram a ws s).pc = a := rfl
@[simp] theorem loadProgram_flags (a : Word) (ws : List Word) (s : State) : (loadProgram a ws s).flags = s.flags := rfl
@[simp] theorem loadProgram_privileged (a : Word) (ws : List Word) (s : State) : (loadProgram a ws s).privileged = s.privileged := rfl
@[simp] theorem loadProgram_thumb (a : Word) (ws : List Word) (s : State) : (loadProgram a ws s).thumb = s.thumb := rfl
@[simp] theorem loadProgram_sctlr (a : Word) (ws : List Word) (s : State) : (loadProgram a ws s).sctlr = s.sctlr := rfl
@[simp] theorem loadProgram_actlr (a : Word) (ws : List Word) (s : State) : (loadProgram a ws s).actlr = s.actlr := rfl
@[simp] theorem loadProgram_dfsr (a : Word) (ws : List Word) (s : State) : (loadProgram a ws s).dfsr = s.dfsr := rfl
@[simp] theorem loadProgram_ifsr (a : Word) (ws : List Word) (s : State) : (loadProgram a ws s).ifsr = s.ifsr := rfl
@[simp] theorem loadProgram_adfsr (a : Word) (ws : List Word) (s : State) : (loadProgram a ws s).adfsr = s.adfsr := rfl
@[simp] theorem loadProgram_aifsr (a : Word) (ws : List Word) (s : State) : (loadProgram a ws s).aifsr = s.aifsr := rfl
@[simp] theorem loadProgram_dfar (a : Word) (ws : List Word) (s : State) : (loadProgram a ws s).dfar = s.dfar := rfl
@[simp] theorem loadProgram_ifar (a : Word) (ws : List Word) (s : State) : (loadProgram a ws s).ifar = s.ifar := rfl
@[simp] theorem loadProgram_mem (a : Word) (ws : List Word) (s : State) : (loadProgram a ws s).mem = placeWords [] a ws := rfl
@[simp] theorem loadProgram_pc0 (a : Word) (ws : List Word) (s : State) : (loadProgram a ws s).pc0 = a := rfl
@[simp] theorem loadProgram_len (a : Word) (ws : List Word) (s : State) : (loadProgram a ws s).len = ws.length := rfl
@[simp] theorem loadProgram_trap (a : Word) (ws : List Word) (s : State) : (loadProgram a ws s).trap = s.trap := rfl
@[simp] theorem loadProgram_envFaults (a : Word) (ws : List Word) (s : State) : (loadProgram a ws s).envFaults = s.envFaults := rfl
@[simp] theorem loadProgram_events (a : Word) (ws : List Word) (s : State) : (loadProgram a ws s).events = s.events := rfl
@[simp] theorem loadProgram_draws (a : Word) (ws : List Word) (s : State) : (loadProgram a ws s).draws = s.draws := rfl

@[simp] theorem launchHandler_regs (a : Word) (ws : List Word) (s : State) : (launchHandler a ws s).regs = s.regs := rfl
@[simp] theorem launchHandler_pc (a : Word) (ws : List Word) (s : State) : (launchHandler a ws s).pc = a := rfl
@[simp] theorem launchHandler_flags (a : Word) (ws : List Word) (s : State) : (launchHandler a ws s).flags = s.flags := rfl
@[simp] theorem launchHandler_privileged (a : Word) (ws : List Word) (s : State) : (launchHandler a ws s).privileged = true := rfl
@[simp] theorem launchHandler_thumb (a : Word) (ws : List Word) (s : State) : (launchHandler a ws s).thumb = s.thumb := rfl
@[simp] theorem launchHandler_sctlr (a : Word) (ws : List Word) (s : State) : (launchHandler a ws s).sctlr = s.sctlr := rfl
@[simp] theorem launchHandler_actlr (a : Word) (ws : List Word) (s : State) : (launchHandler a ws s).actlr = s.actlr := rfl
@[simp] theorem launchHandler_dfsr (a : Word) (ws : List Word) (s : State) : (launchHandler a ws s).dfsr = s.dfsr := rfl
@[simp] theorem launchHandler_ifsr (a : Word) (ws : List Word) (s : State) : (launchHandler a ws s).ifsr = s.ifsr := rfl
@[simp] theorem launchHandler_adfsr (a : Word) (ws : List Word) (s : State) : (launchHandler a ws s).adfsr = s.adfsr := rfl
@[simp] theorem launchHandler_aifsr (a : Word) (ws : List Word) (s : State) : (launchHandler a ws s).aifsr = s.aifsr := rfl
@[simp] theorem launchHandler_dfar (a : Word) (ws : List Word) (s : State) : (launchHandler a ws s).dfar = s.dfar := rfl
@[simp] theorem launchHandler_ifar (a : Word) (ws : List Word) (s : State) : (launchHandler a ws s).ifar = s.ifar := rfl
@[simp] theorem launchHandler_mem (a : Word) (ws : List Word) (s : State) : (launchHandler a ws s).mem = placeWords [] a ws := rfl
@[simp] theorem launchHandler_pc0 (a : Word) (ws : List Word) (s : State) : (launchHandler a ws s).pc0 = a := rfl
@[simp] theorem launchHandler_len (a : Word) (ws : List Word) (s : State) : (launchHandler a ws s).len = ws.length := rfl
@[simp] theorem launchHandler_trap (a : Word) (ws : List Word) (s : State) : (launchHandler a ws s).trap = none := rfl
@[simp] theorem launchHandler_envFaults (a : Word) (ws : List Word) (s : State) : (launchHandler a ws s).envFaults = s.envFaults := rfl
@[simp] theorem launchHandler_events (a : Word) (ws : List Word) (s : State) : (launchHandler a ws s).events = s.events := rfl
@[simp] theorem launchHandler_draws (a : Word) (ws : List Word) (s : State) : (launchHandler a ws s).draws = s.draws := rfl

@[simp] theorem draw_snd_regs (s : State) : ((draw s).2).regs = s.regs := rfl
@[simp] theorem draw_snd_pc (s : State) : ((draw s).2).pc = s.pc := rfl
@[simp] theorem draw_snd_flags (s : State) : ((draw s).2).flags = s.flags := rfl
@[simp] theorem draw_snd_privileged (s : State) : ((draw s).2).privileged = s.privileged := rfl
@[simp] theorem draw_snd_thumb (s : State) : ((draw s).2).thumb = s.thumb := rfl
@[simp] theorem draw_snd_sctlr (s : State) : ((draw s).2).sctlr = s.sctlr := rfl
@[simp] theorem draw_snd_actlr (s : State) : ((draw s).2).actlr = s.actlr := rfl
@[simp] theorem draw_snd_dfsr (s : State) : ((draw s).2).dfsr = s.dfsr := rfl
@[simp] theorem draw_snd_ifsr (s : State) : ((draw s).2).ifsr = s.ifsr := rfl
@[simp] theorem draw_snd_adfsr (s : State) : ((draw s).2).adfsr = s.adfsr := rfl
@[simp] theorem draw_snd_aifsr (s : State) : ((draw s).2).aifsr = s.aifsr := rfl
@[simp] theorem draw_snd_dfar (s : State) : ((draw s).2).dfar = s.dfar := rfl
@[simp] theorem draw_snd_ifar (s : State) : ((draw s).2).ifar = s.ifar := rfl
@[simp] theorem draw_snd_mem (s : State) : ((draw s).2).mem = s.mem := rfl
@[simp] theorem draw_snd_pc0 (s : State) : ((draw s).2).pc0 = s.pc0 := rfl
@[simp] theorem draw_snd_len (s : State) : ((draw s).2).len = s.len := rfl
@[simp] theorem draw_snd_trap (s : State) : ((draw s).2).trap = s.trap := rfl
@[simp] theorem draw_snd_envFaults (s : State) : ((draw s).2).envFaults = s.envFaults := rfl
@[simp] theorem draw_snd_events (s : State) : ((draw s).2).events = s.events := rfl
@[simp] theorem draw_snd_draws (s : State) : ((draw s).2).draws = s.draws + 1 := rfl

@[simp] theorem placeAtPc_regs (w : Word) (s : State) : (placeAtPc w s).regs = s.regs := rfl
@[simp] theorem placeAtPc_pc (w : Word) (s : State) : (placeAtPc w s).pc = s.pc := rfl
@[simp] theorem placeAtPc_flags (w : Word) (s : State) : (placeAtPc w s).flags = s.flags := rfl
@[simp] theorem placeAtPc_privileged (w : Word) (s : State) : (placeAtPc w s).privileged = s.privileged := rfl
@[simp] theorem placeAtPc_thumb (w : Word) (s : State) : (placeAtPc w s).thumb = false := rfl
@[simp] theorem placeAtPc_sctlr (w : Word) (s : State) : (placeAtPc w s).sctlr = s.sctlr := rfl
@[simp] theorem placeAtPc_actlr (w : Word) (s : State) : (placeAtPc w s).actlr = s.actlr := rfl
@[simp] theorem placeAtPc_dfsr (w : Word) (s : State) : (placeAtPc w s).dfsr = s.dfsr := rfl
@[simp] theorem placeAtPc_ifsr (w : Word) (s : State) : (placeAtPc w s).ifsr = s.ifsr := rfl
@[simp] theorem placeAtPc_adfsr (w : Word) (s : State) : (placeAtPc w s).adfsr = s.adfsr := rfl
@[simp] theorem placeAtPc_aifsr (w : Word) (s : State) : (placeAtPc w s).aifsr = s.aifsr := rfl
@[simp] theorem placeAtPc_dfar (w : Word) (s : State) : (placeAtPc w s).dfar = s.dfar := rfl
@[simp] theorem placeAtPc_ifar (w : Word) (s : State) : (placeAtPc w s).ifar = s.ifar := rfl
@[simp] theorem placeAtPc_mem (w : Word) (s : State) : (placeAtPc w s).mem = placeBytes s.mem s.pc (bytesOfWord Config.instrBigEndian w) := rfl
@[simp] theorem placeAtPc_pc0 (w : Word) (s : State) : (placeAtPc w s).pc0 = s.pc := rfl
@[simp] theorem placeAtPc_len (w : Word) (s : State) : (placeAtPc w s).len = 1 := rfl
@[simp] theorem placeAtPc_trap (w : Word) (s : State) : (placeAtPc w s).trap = none := rfl
@[simp] theorem placeAtPc_envFaults (w : Word) (s : State) : (placeAtPc w s).envFaults = false := rfl
@[simp] theorem placeAtPc_events (w : Word) (s : State) : (placeAtPc w s).events = s.events := rfl
@[simp] theorem placeAtPc_draws (w : Word) (s : State) : (placeAtPc w s).draws = s.draws := rfl

@[simp] theorem launch_pc (l : Launch) : (launch l).pc = l.pc0 := rfl
@[simp] theorem launch_pc0 (l : Launch) : (launch l).pc0 = l.pc0 := rfl
@[simp] theorem launch_len (l : Launch) : (launch l).len = l.program.length := rfl
@[simp] theorem launch_mem (l : Launch) : (launch l).mem = placeWords [] l.pc0 l.program := rfl
@[simp] theorem launch_privileged (l : Launch) : (launch l).privileged = l.privileged := rfl
@[simp] theorem launch_thumb (l : Launch) : (launch l).thumb = l.thumb := rfl
@[simp] theorem launch_flags (l : Launch) : (launch l).flags = l.flags := rfl
@[simp] theorem launch_regs (l : Launch) : (launch l).regs = l.regs := rfl
@[simp] theorem launch_envFaults (l : Launch) : (launch l).envFaults = l.envFaults := rfl
@[simp] theorem launch_events (l : Launch) : (launch l).events = l.events := rfl
@[simp] theorem launch_trap (l : Launch) : (launch l).trap = none := by
  cases h : l.cp15 <;> simp [launch, launchCp15, loadProgram, h, State.reset]

theorem launch_sctlr (l : Launch) : (launch l).sctlr = (l.cp15.map (·.sctlr)).getD State.reset.sctlr := by
  cases h : l.cp15 <;> simp [launch, launchCp15, loadProgram, h]
theorem launch_actlr (l : Launch) : (launch l).actlr = (l.cp15.map (·.actlr)).getD State.reset.actlr := by
  cases h : l.cp15 <;> simp [launch, launchCp15, loadProgram, h]
theorem launch_dfsr (l : Launch) : (launch l).dfsr = (l.cp15.map (·.dfsr)).getD State.reset.dfsr := by
  cases h : l.cp15 <;> simp [launch, launchCp15, loadProgram, h]
theorem launch_ifsr (l : Launch) : (launch l).ifsr = (l.cp15.map (·.ifsr)).getD State.reset.ifsr := by
  cases h : l.cp15 <;> simp [launch, launchCp15, loadProgram, h]
theorem launch_adfsr (l : Launch) : (launch l).adfsr = (l.cp15.map (·.adfsr)).getD State.reset.adfsr := by
  cases h : l.cp15 <;> simp [launch, launchCp15, loadProgram, h]
theorem launch_aifsr (l : Launch) : (launch l).aifsr = (l.cp15.map (·.aifsr)).getD State.reset.aifsr := by
  cases h : l.cp15 <;> simp [launch, launchCp15, loadProgram, h]
theorem launch_dfar (l : Launch) : (launch l).dfar = (l.cp15.map (·.dfar)).getD State.reset.dfar := by
  cases h : l.cp15 <;> simp [launch, launchCp15, loadProgram, h]
theorem launch_ifar (l : Launch) : (launch l).ifar = (l.cp15.map (·.ifar)).getD State.reset.ifar := by
  cases h : l.cp15 <;> simp [launch, launchCp15, loadProgram, h]

/-- Passing a boundary touches the schedule alone. -/
theorem passBoundary_eq (s : State) :
    passBoundary s = { s with events := if s.envFaults then s.events.tail else s.events } := by
  unfold passBoundary
  split <;> rfl

end Sys2Proof.Machine
end

