-- ==== Sys2Proof/Laws/Event.lean ====
section
/-! SUPPORT. What the environment's events write (spec/60_exceptions.md R114 to R118), each said once, with the draws as
values nothing is known of. -/

namespace Sys2Proof.Machine

/-- The word DFSR latches is its four fields, each at its place (R114). -/
theorem dfsrWord_eq (sd rw s : BitVec 1) (status : BitVec 4) :
    dfsrWord sd rw s status =
      sd.setWidth 32 <<< 12 ||| rw.setWidth 32 <<< 11 ||| s.setWidth 32 <<< 10 ||| status.setWidth 32 := by
  revert sd rw s status; decide

/-- The word IFSR latches is its three fields, each at its place (R116). -/
theorem ifsrWord_eq (sd s : BitVec 1) (status : BitVec 4) :
    ifsrWord sd s status = sd.setWidth 32 <<< 12 ||| s.setWidth 32 <<< 10 ||| status.setWidth 32 := by
  revert sd s status; decide

/-- The auxiliary word is its three fields, each at its place. -/
theorem auxWord_eq (ways : BitVec 4) (side : BitVec 2) (index : BitVec 9) :
    auxWord ways side index = ways.setWidth 32 <<< 24 ||| side.setWidth 32 <<< 22 ||| index.setWidth 32 <<< 5 := by
  have h1 : auxCacheWay.put (ways.setWidth 32) = ways.setWidth 32 <<< 24 := by revert ways; decide
  have h2 : auxSide.put (side.setWidth 32) = side.setWidth 32 <<< 22 := by revert side; decide
  have h3 : auxIndex.put (index.setWidth 32) = index.setWidth 32 <<< 5 := by
    have hm : auxIndex.mask = (BitVec.allOnes 9).setWidth 32 <<< 5 := by decide
    rw [BitField.put, hm, show auxIndex.lo = 5 from rfl, ← BitVec.shiftLeft_and_distrib, ← BitVec.setWidth_and,
      BitVec.and_allOnes]
  rw [auxWord, h1, h2, h3]

/-- The SD bit is the event's if it gives one, and drawing it changes only the count of draws. -/
theorem drawSd_spec (f : FaultCode) (s : State) :
    ∃ sd k, drawSd f s = (sd, { s with draws := k }) ∧ ∀ b, f.sd = some b → sd = b := by
  unfold drawSd
  cases f.sd with
  | some b => exact ⟨b, s.draws, rfl, fun b' h => by cases h; rfl⟩
  | none => exact ⟨_, s.draws + 1, rfl, fun b' h => by cases h⟩

/-- The data side's auxiliary word, and that drawing it changes only the count of draws. -/
theorem drawDataAux_spec (p : Option DataParity) (s : State) :
    ∃ aux k, drawDataAux p s = (aux, { s with draws := k }) ∧ DataAux p aux := by
  unfold drawDataAux
  rcases p with _ | ⟨ways, index⟩ | index | _ | _
  · exact ⟨_, _, rfl, trivial⟩
  · exact ⟨_, s.draws, rfl, by simp [DataAux, auxWord_eq]⟩
  · exact ⟨_, s.draws + 1, rfl, (draw s).1.setWidth 4, by rw [auxWord_eq]⟩
  · exact ⟨_, s.draws + 1, rfl, (draw s).1.setWidth 4, by rw [auxWord_eq]⟩
  · exact ⟨_, s.draws + 1, rfl, (draw s).1.setWidth 4, by rw [auxWord_eq]⟩

/-- The instruction side's auxiliary word, and that drawing it changes only the count of draws. -/
theorem drawInstrAux_spec (p : Option ParitySource) (s : State) :
    ∃ aux k, drawInstrAux p s = (aux, { s with draws := k }) ∧ InstrAux p aux := by
  unfold drawInstrAux
  rcases p with _ | _ | _ | _
  · exact ⟨_, _, rfl, trivial⟩
  · exact ⟨_, s.draws + 1, rfl, (draw s).1.setWidth 4, by rw [auxWord_eq]; simp⟩
  · exact ⟨_, s.draws + 1, rfl, (draw s).1.setWidth 4, by rw [auxWord_eq]; simp⟩
  · exact ⟨_, s.draws + 1, rfl, (draw s).1.setWidth 4, by rw [auxWord_eq]; simp⟩

/-- What a data abort latches (R114, R115). -/
theorem latchDataFault_spec (f : FaultCode) (rw : BitVec 1) (p : Option DataParity) (s : State) :
    ∃ sd aux k, (∀ b, f.sd = some b → sd = b) ∧ DataAux p aux ∧
      latchDataFault f rw p s =
        { s with dfsr := dfsrWord sd rw f.s f.status, adfsr := aux &&& auxWMask, draws := k } := by
  obtain ⟨sd, k, h1, hsd⟩ := drawSd_spec f s
  obtain ⟨aux, k', h2, haux⟩ := drawDataAux_spec p { s with draws := k }
  exact ⟨sd, aux, k', hsd, haux, by simp only [latchDataFault, h1, h2]⟩

/-- What a prefetch abort latches (R116). -/
theorem latchInstrFault_spec (f : FaultCode) (p : Option ParitySource) (s : State) :
    ∃ sd aux k, (∀ b, f.sd = some b → sd = b) ∧ InstrAux p aux ∧
      latchInstrFault f p s =
        { s with ifsr := ifsrWord sd f.s f.status, aifsr := aux &&& auxWMaskNoIndex, draws := k } := by
  obtain ⟨sd, k, h1, hsd⟩ := drawSd_spec f s
  obtain ⟨aux, k', h2, haux⟩ := drawInstrAux_spec p { s with draws := k }
  exact ⟨sd, aux, k', hsd, haux, by simp only [latchInstrFault, h1, h2]⟩

/-- What no event changes: everything but the six fault registers, the trap record and the count of draws. -/
theorem fireEvent_frame (e : EnvEvent) (s : State) :
    ∃ a b c d x y k t, fireEvent e s =
      { s with dfsr := a, ifsr := b, adfsr := c, aifsr := d, dfar := x, ifar := y, draws := k,
               trap := some { kind := t, pc := s.pc } } := by
  cases e with
  | preciseDataAbort addr f rw p =>
    obtain ⟨sd, aux, k, -, -, h⟩ := latchDataFault_spec f rw p s
    exact ⟨_, s.ifsr, _, s.aifsr, addr, s.ifar, k, .dataAbort, by simp only [fireEvent, h]; rfl⟩
  | impreciseDataAbort f rw p =>
    obtain ⟨sd, aux, k, -, -, h⟩ := latchDataFault_spec f rw p s
    exact ⟨_, s.ifsr, _, s.aifsr, s.dfar, s.ifar, k, .dataAbort, by simp only [fireEvent, h]; rfl⟩
  | prefetchAbort f p =>
    obtain ⟨sd, aux, k, -, -, h⟩ := latchInstrFault_spec f p s
    exact ⟨s.dfsr, _, s.adfsr, _, s.dfar, s.pc, k, .prefetchAbort, by simp only [fireEvent, h]; rfl⟩
  | irq => exact ⟨s.dfsr, s.ifsr, s.adfsr, s.aifsr, s.dfar, s.ifar, s.draws, .irq, rfl⟩
  | fiq => exact ⟨s.dfsr, s.ifsr, s.adfsr, s.aifsr, s.dfar, s.ifar, s.draws, .fiq, rfl⟩

end Sys2Proof.Machine
end

