-- ==== Sys2Proof/Laws/Memory.lean ====
section
/-! SUPPORT. The laws of memory: a read after a write, and that every memory operation keeps the canonical form. -/

namespace Sys2Proof.Machine

/-- A read at the address written gives the byte written. -/
theorem Memory.read_write_same (m : Memory) (a : Nat) (b : Byte) : (m.write a b).read a = some b := by
  induction m with
  | nil => simp [Memory.write, Memory.read]
  | cons x m ih =>
    obtain ⟨a', b'⟩ := x
    by_cases h1 : a < a'
    · simp [Memory.write, Memory.read, h1]
    · by_cases h2 : a = a'
      · simp [Memory.write, Memory.read, h2]
      · simp [Memory.write, Memory.read, h1, h2, ih]

/-- A write leaves every other address as it was. -/
theorem Memory.read_write_other (m : Memory) (a a' : Nat) (b : Byte) (h : a' ≠ a) :
    (m.write a b).read a' = m.read a' := by
  induction m with
  | nil => simp [Memory.write, Memory.read, h]
  | cons x m ih =>
    obtain ⟨c, b'⟩ := x
    by_cases h1 : a < c
    · simp [Memory.write, Memory.read, h1, h]
    · by_cases h2 : a = c
      · subst h2; simp [Memory.write, Memory.read, h]
      · by_cases h3 : a' = c <;> simp [Memory.write, Memory.read, h1, h2, h3, ih]

/-- An entry after a write is the entry written or an old one. -/
theorem Memory.mem_write (m : Memory) (a : Nat) (b : Byte) (x : Host.Cell) (h : x ∈ m.write a b) :
    x = (a, b) ∨ x ∈ m := by
  induction m with
  | nil => simpa [Memory.write] using h
  | cons y m ih =>
    obtain ⟨c, b'⟩ := y
    by_cases h1 : a < c
    · simpa [Memory.write, h1] using h
    · by_cases h2 : a = c
      · simp [Memory.write, h2] at h
        rcases h with h | h
        · left; rw [h, h2]
        · right; simp [h]
      · simp [Memory.write, h1, h2] at h
        rcases h with h | h
        · right; simp [h]
        · rcases ih h with h | h
          · left; exact h
          · right; simp [h]

/-- A write within the address space keeps the canonical form. -/
theorem Memory.write_wf (m : Memory) (a : Nat) (b : Byte) (ha : a < 2 ^ 32) (h : m.wf) : (m.write a b).wf := by
  obtain ⟨hp, hb⟩ := h
  refine ⟨?_, fun x hx => ?_⟩
  · clear hb
    induction m with
    | nil => simp [Memory.write]
    | cons y m ih =>
      obtain ⟨c, b'⟩ := y
      obtain ⟨h0, hm⟩ := List.pairwise_cons.mp hp
      by_cases h1 : a < c
      · simp only [Memory.write, h1, if_true]
        refine List.pairwise_cons.mpr ⟨fun x hx => ?_, hp⟩
        rcases List.mem_cons.mp hx with h | h
        · rw [h]; exact h1
        · exact h1.trans (h0 x h)
      · by_cases h2 : a = c
        · subst h2
          simp only [Memory.write, h1, if_false, if_true]
          exact List.pairwise_cons.mpr ⟨h0, hm⟩
        · simp only [Memory.write, h1, h2, if_false]
          refine List.pairwise_cons.mpr ⟨fun x hx => ?_, ih hm⟩
          rcases Memory.mem_write m a b x hx with h | h
          · rw [h]; exact lt_of_le_of_ne (Nat.le_of_not_lt h1) (Ne.symm h2)
          · exact h0 x h
  · rcases Memory.mem_write m a b x hx with h | h
    · rw [h]; exact ha
    · exact hb x h

/-- Placing bytes keeps the canonical form. -/
theorem placeBytes_wf (bs : List Byte) : ∀ (m : Memory) (a : Word), m.wf → (placeBytes m a bs).wf := by
  induction bs with
  | nil => intro m a h; exact h
  | cons b bs ih => intro m a h; exact ih _ _ (Memory.write_wf m a.toNat b a.isLt h)

/-- Placing words keeps the canonical form. -/
theorem placeWords_wf (ws : List Word) : ∀ (m : Memory) (a : Word), m.wf → (placeWords m a ws).wf := by
  induction ws with
  | nil => intro m a h; exact h
  | cons w ws ih => intro m a h; exact ih _ _ (placeBytes_wf _ m a h)

/-- The empty memory has the canonical form. -/
theorem Memory.nil_wf : Memory.wf [] := ⟨List.Pairwise.nil, fun _ h => nomatch h⟩

/-- A loaded program's memory has the canonical form. -/
theorem loadProgram_wf (a : Word) (ws : List Word) (s : State) : (loadProgram a ws s).mem.wf :=
  placeWords_wf ws [] a Memory.nil_wf

/-- Reading bytes depends on those bytes alone. -/
theorem readBytes_congr {m m' : Memory} {k : Nat} : ∀ {a : Word},
    (∀ j < k, m.read (a + BitVec.ofNat 32 j).toNat = m'.read (a + BitVec.ofNat 32 j).toNat) →
      readBytes m a k = readBytes m' a k := by
  induction k with
  | zero => intros; rfl
  | succ k ih =>
    intro a h
    have h0 : m.read a.toNat = m'.read a.toNat := by simpa using h 0 (Nat.succ_pos k)
    have hs := ih (a := a + 1#32) (fun j hj => by
      have e : a + BitVec.ofNat 32 (j + 1) = a + 1#32 + BitVec.ofNat 32 j := by
        rw [BitVec.add_assoc]; congr 1; apply BitVec.eq_of_toNat_eq; simp [add_comm]
      simpa only [e] using h (j + 1) (Nat.succ_lt_succ hj))
    simp only [readBytes, h0, hs]

/-- Placing bytes leaves every other byte alone. -/
theorem read_placeBytes_other (bs : List Byte) : ∀ (m : Memory) (a : Word) (x : Nat),
    (x < a.toNat ∨ a.toNat + bs.length ≤ x) → a.toNat + bs.length ≤ 2 ^ 32 → (placeBytes m a bs).read x = m.read x := by
  induction bs with
  | nil => intros; rfl
  | cons b bs ih =>
    intro m a x h hl
    simp only [List.length_cons] at h hl
    simp only [placeBytes]
    rcases bs with _ | ⟨c, cs⟩
    · exact Memory.read_write_other _ _ _ _ (by simp at h; omega)
    · have e : (a + 1#32).toNat = a.toNat + 1 := by
        rw [BitVec.toNat_add]; simp only [List.length_cons] at hl; simp; omega
      rw [ih _ _ _ (by rw [e]; omega) (by rw [e]; omega)]
      exact Memory.read_write_other _ _ _ _ (by omega)

/-- The four bytes of a word read back as they were placed. -/
theorem readBytes_placeBytes_word (m : Memory) (a w : Word) (h : a.toNat + 4 ≤ 2 ^ 32) :
    readBytes (placeBytes m a (bytesOfWord Config.instrBigEndian w)) a 4 = .ok (bytesOfWord true w) := by
  have f1 : (a + 1#32).toNat = a.toNat + 1 := by rw [BitVec.toNat_add]; simp; omega
  have f2 : (a + 1#32 + 1#32).toNat = a.toNat + 2 := by rw [BitVec.toNat_add, f1]; simp; omega
  have f3 : (a + 1#32 + 1#32 + 1#32).toNat = a.toNat + 3 := by rw [BitVec.toNat_add, f2]; simp; omega
  have n {m : Memory} {x y : Nat} {b : Byte} (h : y ≠ x) : (m.write x b).read y = m.read y :=
    Memory.read_write_other m x y b h
  simp only [bytesOfWord, Config.instrBigEndian, if_true, placeBytes, readBytes, f1, f2, f3]
  rw [n (by omega), n (by omega), n (by omega), Memory.read_write_same]
  simp only
  rw [n (by omega), n (by omega), Memory.read_write_same]
  simp only
  rw [n (by omega), Memory.read_write_same]
  simp only
  rw [Memory.read_write_same]

/-- Placing words leaves every byte below them alone. -/
theorem read_placeWords_below (ws : List Word) : ∀ (m : Memory) (a : Word) (x : Nat), x < a.toNat →
    a.toNat + 4 * ws.length ≤ 0xFFFFFFFC → (placeWords m a ws).read x = m.read x := by
  induction ws with
  | nil => intros; rfl
  | cons w ws ih =>
    intro m a x h hl
    simp only [List.length_cons] at hl
    have e : (a + 4#32).toNat = a.toNat + 4 := by rw [BitVec.toNat_add]; simp; omega
    simp only [placeWords]
    rw [ih _ _ _ (by rw [e]; omega) (by rw [e]; omega)]
    exact read_placeBytes_other _ _ _ _ (.inl h) (by simp [bytesOfWord, Config.instrBigEndian]; omega)

/-- Each word of a program reads back at its place, if the program does not wrap. -/
theorem readBytes_placeWords (ws : List Word) : ∀ (m : Memory) (a : Word) (k : Nat) (hk : k < ws.length),
    a.toNat + 4 * ws.length ≤ 0xFFFFFFFC →
      readBytes (placeWords m a ws) (a + BitVec.ofNat 32 (4 * k)) 4 = .ok (bytesOfWord true ws[k]) := by
  induction ws with
  | nil => intro m a k hk; simp at hk
  | cons w ws ih =>
    intro m a k hk hl
    simp only [List.length_cons] at hl
    have e : (a + 4#32).toNat = a.toNat + 4 := by rw [BitVec.toNat_add]; simp; omega
    cases k with
    | zero =>
      simp only [placeWords, Nat.mul_zero, BitVec.add_zero, List.getElem_cons_zero]
      rw [← readBytes_placeBytes_word m a w (by omega)]
      refine readBytes_congr fun j hj => ?_
      refine read_placeWords_below _ _ _ _ ?_ (by rw [e]; omega)
      rw [e, BitVec.toNat_add]; simp; omega
    | succ k =>
      have e2 : a + BitVec.ofNat 32 (4 * (k + 1)) = a + 4#32 + BitVec.ofNat 32 (4 * k) := by
        rw [BitVec.add_assoc]; congr 1; apply BitVec.eq_of_toNat_eq; simp; omega
      rw [e2]
      exact ih _ (a + 4#32) k (by simpa using hk) (by rw [e]; omega)

end Sys2Proof.Machine
end

