-- ==== Sys2Proof/Laws/PerInstr.lean ====
section
/-! SUPPORT. Statements about every instruction as syntax, one lemma per constructor. -/

namespace Sys2Proof.Laws.EncodedFields

/-- The word of an instruction is a register transfer whose fields are the instruction's tuple (R65, R67, R68). -/
def Statement (i : Instr) : Prop := isRegisterTransfer (encode i) = true ∧ transferOfWord (encode i) = transferOf i

theorem statement_of_encode (i : Instr) : Statement i :=
  ⟨isRegisterTransfer_wordOfTransfer _, transferOfWord_wordOfTransfer _⟩

theorem mrcSctlr (c : Cond) (d : RegNum) : Statement (.mrcSctlr c d) := statement_of_encode _
theorem mcrSctlr (c : Cond) (d : RegNum) : Statement (.mcrSctlr c d) := statement_of_encode _
theorem mrcActlr (c : Cond) (d : RegNum) : Statement (.mrcActlr c d) := statement_of_encode _
theorem mcrActlr (c : Cond) (d : RegNum) : Statement (.mcrActlr c d) := statement_of_encode _
theorem mrcDfsr (c : Cond) (d : RegNum) : Statement (.mrcDfsr c d) := statement_of_encode _
theorem mcrDfsr (c : Cond) (d : RegNum) : Statement (.mcrDfsr c d) := statement_of_encode _
theorem mrcIfsr (c : Cond) (d : RegNum) : Statement (.mrcIfsr c d) := statement_of_encode _
theorem mcrIfsr (c : Cond) (d : RegNum) : Statement (.mcrIfsr c d) := statement_of_encode _
theorem mrcAdfsr (c : Cond) (d : RegNum) : Statement (.mrcAdfsr c d) := statement_of_encode _
theorem mcrAdfsr (c : Cond) (d : RegNum) : Statement (.mcrAdfsr c d) := statement_of_encode _
theorem mrcAifsr (c : Cond) (d : RegNum) : Statement (.mrcAifsr c d) := statement_of_encode _
theorem mcrAifsr (c : Cond) (d : RegNum) : Statement (.mcrAifsr c d) := statement_of_encode _
theorem mrcDfar (c : Cond) (d : RegNum) : Statement (.mrcDfar c d) := statement_of_encode _
theorem mcrDfar (c : Cond) (d : RegNum) : Statement (.mcrDfar c d) := statement_of_encode _
theorem mrcIfar (c : Cond) (d : RegNum) : Statement (.mrcIfar c d) := statement_of_encode _
theorem mcrIfar (c : Cond) (d : RegNum) : Statement (.mcrIfar c d) := statement_of_encode _

end Sys2Proof.Laws.EncodedFields
end

