-- ==== Sys2Proof/Laws/Transfer.lean ====
section
/-! SUPPORT. What the two transfers, and so every instruction, can do, said once. -/

namespace Sys2Proof.Machine

@[simp] theorem gprIndex_gprNum (i : Fin 15) : gprIndex (gprNum i) = some i := by revert i; decide

/-- Fifteen is the one register number with no place in the file. -/
theorem gprIndex_eq_none_iff (d : RegNum) : gprIndex d = none ↔ d = 15#4 := by revert d; decide

/-- Every admitted register number spells one of R0 to R14. -/
theorem exists_gprNum {d : RegNum} (h : RegNum.admitted d = true) : ∃ i : Fin 15, d = gprNum i := by
  revert d; decide

/-- An instruction is its transfer: the meaning of every arm of `exec`, by direction and register. -/
theorem exec_eq (i : Instr) (s : State) :
    exec i s = match i.op with
      | .mrc => moveToCore i.reg i.cond i.rd s
      | .mcr => moveToCp15 i.reg i.cond i.rd s := by
  cases i <;> rfl

/-- A guarded transfer whose condition passes in a privileged mode does its act and advances. -/
theorem guarded_acts {c : Cond} {d : RegNum} {i : Fin 15} {act : Fin 15 → State → State} {s : State}
    (hd : gprIndex d = some i) (hc : condPassed c s.flags = true) (hp : s.privileged = true) :
    guarded c d act s = .next (advance (act i s)) := by simp [guarded, hd, hc, hp]

/-- A guarded transfer whose condition passes in User mode raises UndefinedInstruction. -/
theorem guarded_traps {c : Cond} {d : RegNum} {i : Fin 15} {act : Fin 15 → State → State} {s : State}
    (hd : gprIndex d = some i) (hc : condPassed c s.flags = true) (hp : s.privileged = false) :
    guarded c d act s = .next (raise .undefinedInstruction s) := by simp [guarded, hd, hc, hp]

/-- A guarded transfer whose condition fails only advances. -/
theorem guarded_skips {c : Cond} {d : RegNum} {i : Fin 15} {act : Fin 15 → State → State} {s : State}
    (hd : gprIndex d = some i) (hc : condPassed c s.flags = false) :
    guarded c d act s = .next (advance s) := by simp [guarded, hd, hc]

/-- Everything a guarded transfer that answers a next state can have done. -/
theorem guarded_cases {c : Cond} {d : RegNum} {act : Fin 15 → State → State} {s t : State}
    (h : guarded c d act s = .next t) :
    (condPassed c s.flags = false ∧ t = advance s) ∨
    (condPassed c s.flags = true ∧ s.privileged = false ∧ t = raise .undefinedInstruction s) ∨
    (∃ i, gprIndex d = some i ∧ condPassed c s.flags = true ∧ s.privileged = true ∧ t = advance (act i s)) := by
  unfold guarded at h
  split at h
  · cases h
  · rename_i i hi
    split at h
    · rename_i hc
      split at h
      · rename_i hp
        cases h
        exact .inr (.inr ⟨i, hi, hc, hp, rfl⟩)
      · rename_i hp
        cases h
        exact .inr (.inl ⟨hc, by simpa using hp, rfl⟩)
    · rename_i hc
      cases h
      exact .inl ⟨by simpa using hc, rfl⟩

/-- Everything an instruction that answers a next state can have done: skipped, trapped in User mode, or transferred. -/
theorem exec_cases {i : Instr} {s t : State} (h : exec i s = .next t) :
    (condPassed i.cond s.flags = false ∧ t = advance s) ∨
    (condPassed i.cond s.flags = true ∧ s.privileged = false ∧ t = raise .undefinedInstruction s) ∨
    (∃ k, gprIndex i.rd = some k ∧ condPassed i.cond s.flags = true ∧ s.privileged = true ∧
      ((i.op = .mrc ∧ t = advance (writeGpr k (readCp15 i.reg s) s)) ∨
        (i.op = .mcr ∧ t = advance (writeCp15 i.reg (readGpr s k) s)))) := by
  rw [exec_eq] at h
  split at h
  all_goals
    rename_i ho
    rcases guarded_cases h with h | h | ⟨k, hk, hc, hp, ht⟩
    · exact .inl h
    · exact .inr (.inl h)
  · exact .inr (.inr ⟨k, hk, hc, hp, .inl ⟨ho, ht⟩⟩)
  · exact .inr (.inr ⟨k, hk, hc, hp, .inr ⟨ho, ht⟩⟩)

/-- A write of one CP15 register leaves the word of every other. -/
theorem storedWord_writeCp15_other {r r' : Cp15Reg} (h : r' ≠ r) (v : Word) (s : State) :
    storedWord r' (writeCp15 r v s) = storedWord r' s := by
  cases r <;> cases r' <;> first | rfl | exact absurd rfl h

/-- What `MRC` reads depends on the register's own stored word alone. -/
theorem readCp15_congr {r : Cp15Reg} {s t : State} (h : storedWord r s = storedWord r t) :
    readCp15 r s = readCp15 r t := by
  cases r <;> simp only [storedWord] at h <;> simp only [readCp15, h]

end Sys2Proof.Machine
end

