-- ==== Sys2Proof/Laws/Step.lean ====
section
/-! SUPPORT. What the boundary, the fetch and a step can do, said once. -/

namespace Sys2Proof.Machine

/-- The event due is the head of the schedule, if the environment acts. -/
theorem dueEvent_eq_none_iff (s : State) : dueEvent s = none ↔ Quiet s := by
  unfold dueEvent Quiet
  cases s.envFaults <;> rcases s.events with _ | ⟨_ | e, es⟩ <;> simp

theorem dueEvent_eq_some_iff (s : State) (e : EnvEvent) : dueEvent s = some e ↔ EventDue s e := by
  unfold dueEvent EventDue
  cases s.envFaults <;> rcases s.events with _ | ⟨_ | e', es⟩ <;> simp

/-- A running state passes every check of the boundary. -/
theorem boundary_of_running {s : State} (h : Running s) : boundary s = .next (dueEvent s) := by
  obtain ⟨h1, h2, h3, h4, h5, h6, h7⟩ := h
  have e1 : ¬ 0xFFFFFFFC < programEnd s := by simp only [programEnd]; omega
  have e2 : ¬ s.pc.toNat = programEnd s := by simp only [programEnd]; omega
  have e3 : ¬ s.pc.toNat < s.pc0.toNat := by omega
  have e4 : ¬ programEnd s < s.pc.toNat := by simp only [programEnd]; omega
  simp [boundary, misaligned, h1, h2, h3, h4, e1, e2, e3, e4]

/-- Only a running state passes every check of the boundary. -/
theorem running_of_boundary {s : State} {o : Option EnvEvent} (h : boundary s = .next o) : Running s ∧ o = dueEvent s := by
  unfold boundary at h
  split at h
  · cases h
  rename_i h0
  split_ifs at h with h1 h2 h3 h4 h5
  cases h
  simp only [misaligned, Bool.or_eq_true, decide_eq_true_eq, not_or, not_not] at h2 h5
  simp only [programEnd] at h3 h4 h5
  exact ⟨⟨h0, by simpa using h1, h2.1, h2.2, by omega, by omega⟩, rfl⟩

/-- A step that answers a next state fired an event or ran the instruction it fetched. -/
theorem step_cases {s t : State} (h : step s = .next t) :
    (∃ e, Running s ∧ dueEvent s = some e ∧ t = fireEvent e (passBoundary s)) ∨
    (∃ i, Running s ∧ dueEvent s = none ∧ fetch s = .next i ∧ exec i (passBoundary s) = .next t) := by
  unfold step at h
  split at h
  · cases h
  · cases h
  · rename_i e hb
    obtain ⟨hr, he⟩ := running_of_boundary hb
    cases h
    exact .inl ⟨e, hr, he.symm, rfl⟩
  · rename_i hb
    obtain ⟨hr, he⟩ := running_of_boundary hb
    split at h
    · cases h
    · cases h
    · rename_i i hf
      exact .inr ⟨i, hr, he.symm, hf, h⟩

/-- A step of a running state with no event due, by what it fetches. -/
theorem step_of_quiet {s : State} (hr : Running s) (hq : dueEvent s = none) :
    step s = match fetch s with
      | .fault f => .fault f
      | .refused r => .refused r
      | .next i => exec i (passBoundary s) := by
  cases hf : fetch s <;> simp only [step, boundary_of_running hr, hq, hf]

/-- A step of a running state with an event due fires it. -/
theorem step_of_event {s : State} {e : EnvEvent} (hr : Running s) (he : dueEvent s = some e) :
    step s = .next (fireEvent e (passBoundary s)) := by
  simp only [step, boundary_of_running hr, he]

/-- What a decoded word says of the instruction: its parts are the word's fields. -/
theorem decodeWord_ok {w : Word} {i : Instr} (h : decodeWord w = .ok i) :
    isRegisterTransfer w = true ∧ transferOf i = transferOfWord w ∧ i.wf = true := by
  unfold decodeWord at h
  split at h
  · rename_i hw
    refine ⟨hw, ?_⟩
    unfold decodeTransfer at h
    split at h
    · cases h
    · rename_i c hc
      split at h
      · cases h
      rename_i h1
      split at h
      · cases h
      rename_i h2
      split at h
      · rename_i r hr
        cases h
        have h1' : (transferOfWord w).cpNum = 15#4 := by simpa using h1
        have h2' : RegNum.admitted (transferOfWord w).rd = true := by simpa using h2
        refine ⟨?_, by simpa [Instr.wf] using h2'⟩
        simp only [transferOf, ofParts_op, ofParts_cond, ofParts_reg, ofParts_rd, condBits_of_condOfBits hc,
          selectorOf_of_regOfSelector hr, ← h1']
      · split at h <;> cases h
  · cases h

/-- An instruction the decoder gives from bytes is well formed. -/
theorem decodeBytes_wf {bs : List Byte} {i : Instr} {rest : List Byte} (h : decodeBytes bs = .ok (i, rest)) :
    i.wf = true := by
  unfold decodeBytes at h
  split at h
  · split at h
    · rename_i hd
      cases h
      exact (decodeWord_ok hd).2.2
    · cases h
  · cases h

/-- A fetched instruction is well formed. -/
theorem fetch_wf {s : State} {i : Instr} (h : fetch s = .next i) : i.wf = true := by
  unfold fetch at h
  split at h
  · cases h
  · split at h
    · rename_i hd
      cases h
      exact decodeBytes_wf hd
    · cases h

/-- The fetch of bytes that decode. -/
theorem fetch_of_bytes {s : State} {bytes rest : List Byte} {i : Instr} (hb : readBytes s.mem s.pc 4 = .ok bytes)
    (hd : decodeBytes bytes = .ok (i, rest)) : fetch s = .next i := by simp [fetch, hb, hd]

/-- The advance keeps the pc a multiple of 4. -/
theorem aligned_add_four {a : Word} (h : a.extractLsb' 0 2 = 0#2) : (a + 4#32).extractLsb' 0 2 = 0#2 := by
  apply BitVec.eq_of_toNat_eq
  have := congrArg BitVec.toNat h
  simp [BitVec.extractLsb'_toNat] at this ⊢
  omega

end Sys2Proof.Machine
end

