-- ==== Sys2Proof/Machine/Assembly.lean ====
section
/-! DEFINITION. The assembler spelling of an instruction (spec/30_encoding.md R76): mnemonic and condition suffix in
capitals, then six operands separated by commas. -/

namespace Sys2Proof.Machine

/-- The condition suffix (R69); AL is written without one. For the two conditions with two names, CS and CC are taken
(log entry 22). -/
def condSuffix : Cond → String
  | .eq => "EQ"
  | .ne => "NE"
  | .cs => "CS"
  | .cc => "CC"
  | .mi => "MI"
  | .pl => "PL"
  | .vs => "VS"
  | .vc => "VC"
  | .hi => "HI"
  | .ls => "LS"
  | .ge => "GE"
  | .lt => "LT"
  | .gt => "GT"
  | .le => "LE"
  | .al => ""

/-- `MRC` or `MCR`. -/
def opName : Op → String
  | .mrc => "MRC"
  | .mcr => "MCR"

/-- A line of assembler in the source's spelling, for example `MRC P15, 0, R0, C1, C0, 0`. -/
def assembly (i : Instr) : String :=
  let t := selectorOf i.reg
  opName i.op ++ condSuffix i.cond ++ " P15, " ++ toString t.opc1.toNat ++ ", R" ++ toString i.rd.toNat ++ ", C" ++
    toString t.crn.toNat ++ ", C" ++ toString t.crm.toNat ++ ", " ++ toString t.opc2.toNat

end Sys2Proof.Machine
end

