-- ==== Sys2Proof/Tests/Slice0.lean ====
section
/-! SUPPORT. Tests of one step or one function each; expected values are those of spec/95_test_vectors.md (L2.1 to L2.5) and of
the examples of spec/40_mrc_mcr.md. Then, for every statement with hypotheses, a state and operands that meet them. -/

namespace Sys2Proof.Tests

open Sys2Proof.Machine

/-- A privileged state at 0x100 with every register and CP15 word 0, and no program. -/
def blank : State :=
  { regs := Vector.replicate 15 0#32, pc := 0x100#32, flags := ⟨false, false, false, false⟩, privileged := true
    thumb := false, sctlr := 0#32, actlr := 0#32, dfsr := 0#32, ifsr := 0#32, adfsr := 0#32, aifsr := 0#32
    dfar := 0#32, ifar := 0#32, mem := [], pc0 := 0x100#32, len := 0, trap := none, envFaults := false, events := []
    draws := 0 }

/-- `blank` with the one-word program `w` and a value in R0. -/
def ready (w : Word) (r0 : Word := 0#32) : State := writeGpr 0 r0 (placeAtPc w blank)

/-- `ready` with an event due. -/
def withEvent (e : EnvEvent) : State := { ready 0xEE110F10#32 with envFaults := true, events := [some e, none] }

/-- A property of the next state, false of a stop. -/
def nextHas (o : Answer) (p : State → Bool) : Bool :=
  match o with
  | .next s => p s
  | _ => false

/-! ### Syntax and encoding -/

theorem test_wf_refuses_rd_15 :
    Instr.wf (.mrcSctlr .al 15#4) = false ∧ Instr.wf (.mcrIfar .eq 15#4) = false ∧
      Instr.wf (.mrcSctlr .al 14#4) = true := by decide

/-- R68 field by field: cond 1110, 1110, opc_1 000, L 1, CRn 0001, Rd 0000, cp_num 1111, opc_2 000, 1, CRm 0000. -/
theorem test_decode_mrc_sctlr :
    decodeWord 0b1110_1110_000_1_0001_0000_1111_000_1_0000#32 = .ok (.mrcSctlr .al 0#4) := rfl

/-- R67: cond 0001, opc_1 000, L 0, CRn 0001, Rd 0001, cp_num 1111, opc_2 001, CRm 0000. -/
theorem test_decode_mcr_actlr :
    decodeWord 0b0001_1110_000_0_0001_0001_1111_001_1_0000#32 = .ok (.mcrActlr .ne 1#4) := rfl

theorem test_decode_mcr_sctlr : decodeWord 0xEE010F10#32 = .ok (.mcrSctlr .al 0#4) := rfl
theorem test_decode_mrc_sctlr_r14 : decodeWord 0xEE11EF10#32 = .ok (.mrcSctlr .al 14#4) := rfl
theorem test_decode_mrc_actlr : decodeWord 0xEE112F30#32 = .ok (.mrcActlr .al 2#4) := rfl
theorem test_decode_mrc_dfsr : decodeWord 0xEE153F10#32 = .ok (.mrcDfsr .al 3#4) := rfl
theorem test_decode_mcr_dfsr : decodeWord 0xEE055F10#32 = .ok (.mcrDfsr .al 5#4) := rfl
theorem test_decode_mrc_ifsr : decodeWord 0xEE150F30#32 = .ok (.mrcIfsr .al 0#4) := rfl
theorem test_decode_mcr_ifsr : decodeWord 0xEE050F30#32 = .ok (.mcrIfsr .al 0#4) := rfl
theorem test_decode_mrc_adfsr : decodeWord 0xEE150F11#32 = .ok (.mrcAdfsr .al 0#4) := rfl
theorem test_decode_mcr_adfsr : decodeWord 0xEE050F11#32 = .ok (.mcrAdfsr .al 0#4) := rfl
theorem test_decode_mrc_aifsr : decodeWord 0xEE150F31#32 = .ok (.mrcAifsr .al 0#4) := rfl
theorem test_decode_mcr_aifsr : decodeWord 0xEE050F31#32 = .ok (.mcrAifsr .al 0#4) := rfl
theorem test_decode_mrc_dfar : decodeWord 0xEE164F10#32 = .ok (.mrcDfar .al 4#4) := rfl
theorem test_decode_mcr_dfar : decodeWord 0xEE065F10#32 = .ok (.mcrDfar .al 5#4) := rfl
theorem test_decode_mrc_ifar : decodeWord 0xEE160F50#32 = .ok (.mrcIfar .al 0#4) := rfl
theorem test_decode_mcr_ifar : decodeWord 0xEE060F50#32 = .ok (.mcrIfar .al 0#4) := rfl
theorem test_decode_mcreq : decodeWord 0x0E010F10#32 = .ok (.mcrSctlr .eq 0#4) := rfl

/-- L2.1, and the seven steps of R72 in their order: each word is refused by the first step that applies. -/
theorem test_decode_refusals :
    decodeWord 0xE1A00000#32 = .error .notInScope ∧ decodeWord 0xEE110F00#32 = .error .notInScope ∧
      decodeWord 0xFE110F10#32 = .error .notInScope ∧ decodeWord 0xEE110E10#32 = .error .otherCoprocessor ∧
      decodeWord 0xEE11FE10#32 = .error .otherCoprocessor ∧ decodeWord 0xEE11FF10#32 = .error .rdIsPc ∧
      decodeWord 0xEE10FF10#32 = .error .rdIsPc := ⟨rfl, rfl, rfl, rfl, rfl, rfl, rfl⟩

theorem test_decode_undescribed :
    decodeWord 0xEE100F10#32 = .error .undescribedRegister ∧ decodeWord 0xEE160F30#32 = .error .undescribedRegister ∧
      decodeWord 0xEE110F50#32 = .error .undescribedRegister ∧ decodeWord 0xEE070F15#32 = .error .undescribedRegister ∧
      decodeWord 0xEE310F10#32 = .error .undescribedRegister ∧ decodeWord 0xEE120F10#32 = .error .unknownCp15Encoding ∧
      decodeWord 0xEE150F50#32 = .error .unknownCp15Encoding ∧ decodeWord 0x0E120F10#32 = .error .unknownCp15Encoding :=
  ⟨rfl, rfl, rfl, rfl, rfl, rfl, rfl, rfl⟩

theorem test_table_word : decodeTableWord 32 0xEE110F10 = some (.mrcSctlr .al 0#4) := by decide

/-- R76. -/
theorem test_assembly : assembly (.mrcIfar .eq 3#4) = "MRCEQ P15, 0, R3, C6, C0, 2" ∧
    assembly (.mcrSctlr .al 0#4) = "MCR P15, 0, R0, C1, C0, 0" := ⟨rfl, rfl⟩

/-! ### The masks, read and write functions (L2.2) -/

theorem test_masks :
    sctlrWMask true = 0x4B087007#32 ∧ sctlrWMask false = 0x43087007#32 ∧ sctlrOnes = 0x80200800#32 ∧
      sctlrZeros = 0x30000000#32 ∧ sctlrRes = 0x04D787F8#32 ∧ actlrWMask = 0xFFFBFFF7#32 ∧ actlrRes = 0x00040008#32 ∧
      dfsrWMask = 0x00001C0F#32 ∧ dfsrRes = 0xFFFFE300#32 ∧ ifsrWMask = 0x0000140F#32 ∧ ifsrRes = 0xFFFFEB00#32 ∧
      auxWMask = 0x0FC03FE0#32 ∧ auxRes = 0xF03FC01F#32 ∧ aifsrWMask true = 0x0FC00000#32 := by decide

theorem test_sctlr_write_read :
    writeSctlr true 0#32 0xA5A5A5A5#32 = 0x01002005#32 ∧ readSctlr 0#32 0x01002005#32 = 0x81202805#32 ∧
      readSctlr 0xFFFFFFFF#32 0x01002005#32 = 0x85F7AFFD#32 ∧ readSctlr 0x00C50078#32 0#32 = 0x80E50878#32 := by decide

theorem test_sctlr_nmfi_not_writable :
    writeSctlr false 0#32 0xFFFFFFFF#32 = 0x43087007#32 ∧ writeSctlr false 0x08000000#32 0#32 = 0x08000000#32 ∧
      writeSctlr false 0x08000000#32 0xA5A5A5A5#32 = 0x09002005#32 := by decide

theorem test_actlr_write_read :
    writeActlr 0x5A5A5A5A#32 = 0x5A5A5A52#32 ∧ readActlr 0#32 0x5A5A5A52#32 = 0x5A5A5A52#32 ∧
      readActlr 0xFFFFFFFF#32 0x5A5A5A52#32 = 0x5A5E5A5A#32 := by decide

theorem test_dfsr_write_read :
    writeDfsr 0x5A5A5A5A#32 = 0x0000180A#32 ∧ readDfsr 0#32 0x0000180A#32 = 0x0000180A#32 ∧
      readDfsr 0xFFFFFFFF#32 0x0000180A#32 = 0xFFFFFB0A#32 := by decide

theorem test_ifsr_write_read :
    writeIfsr 0x5A5A5A5A#32 = 0x0000100A#32 ∧ readIfsr 0#32 0x0000100A#32 = 0x0000100A#32 ∧
      readIfsr 0xFFFFFFFF#32 0x0000100A#32 = 0xFFFFFB0A#32 := by decide

theorem test_adfsr_write_read :
    writeAdfsr 0xA5A5A5A5#32 = 0x058025A0#32 ∧ readAdfsr 0#32 0x058025A0#32 = 0x058025A0#32 ∧
      readAdfsr 0xFFFFFFFF#32 0x058025A0#32 = 0xF5BFE5BF#32 := by decide

theorem test_aifsr_write_read :
    writeAifsr false 0x5A5A5A5A#32 = 0x0A401A40#32 ∧ readAifsr false 0xFFFFFFFF#32 0x0A401A40#32 = 0xFA7FDA5F#32 ∧
      writeAifsr true 0xA5A5A5A5#32 = 0x05800000#32 ∧ readAifsr true 0#32 0x05800000#32 = 0x05800000#32 := by decide

/-! ### One instruction, one step (the examples of R82 to R97, L2.3). Where a result holds a parameter, it is named. -/

theorem test_mrc_sctlr :
    exec (.mrcSctlr .al 0#4) { blank with sctlr := 0x00001005#32 } =
      .next { blank with
        sctlr := 0x00001005#32, pc := 0x104#32
        regs := blank.regs.set 0 (0x80201805#32 ||| (Config.resSctlr &&& 0x04D787F8#32)) } := rfl

theorem test_mcr_sctlr :
    exec (.mcrSctlr .al 1#4) (writeGpr 1 0x00001005#32 blank) =
      .next { writeGpr 1 0x00001005#32 blank with
        pc := 0x104#32, sctlr := writeSctlr Config.nmfiWritable 0#32 0x00001005#32 } ∧
      writeSctlr true 0#32 0x00001005#32 = 0x00001005#32 ∧ writeSctlr false 0#32 0x00001005#32 = 0x00001005#32 :=
  ⟨rfl, rfl, rfl⟩

theorem test_mrc_actlr :
    exec (.mrcActlr .al 2#4) { blank with actlr := 0x0E000007#32 } =
      .next { blank with
        actlr := 0x0E000007#32, pc := 0x104#32
        regs := blank.regs.set 2 (0x0E000007#32 ||| (Config.resActlr &&& 0x00040008#32)) } := rfl

theorem test_mcr_actlr :
    nextHas (step (ready 0xEE010F30#32 0x02000000#32)) (fun t => t.actlr == 0x02000000#32 && t.pc == 0x104#32) = true := by
  decide

theorem test_mrc_dfsr :
    exec (.mrcDfsr .al 3#4) { blank with dfsr := 0x0000080D#32 } =
      .next { blank with
        dfsr := 0x0000080D#32, pc := 0x104#32
        regs := blank.regs.set 3 (0x0000080D#32 ||| (Config.resDfsr &&& 0xFFFFE300#32)) } := rfl

theorem test_mcr_dfsr :
    nextHas (step { ready 0xEE050F10#32 5#32 with dfsr := 0x0000080D#32 }) (fun t => t.dfsr == 5#32 && t.trap == none) =
      true := by decide

theorem test_mrc_ifsr :
    exec (.mrcIfsr .al 4#4) { blank with ifsr := 0x0000100D#32 } =
      .next { blank with
        ifsr := 0x0000100D#32, pc := 0x104#32
        regs := blank.regs.set 4 (0x0000100D#32 ||| (Config.resIfsr &&& 0xFFFFEB00#32)) } := rfl

theorem test_mcr_ifsr :
    nextHas (step { ready 0xEE050F30#32 0x00000800#32 with ifsr := 1#32 }) (fun t => t.ifsr == 0#32) = true := by decide

theorem test_mrc_adfsr :
    exec (.mrcAdfsr .al 5#4) { blank with adfsr := 0x01000020#32 } =
      .next { blank with
        adfsr := 0x01000020#32, pc := 0x104#32
        regs := blank.regs.set 5 (0x01000020#32 ||| (Config.resAdfsr &&& 0xF03FC01F#32)) } := rfl

theorem test_mcr_adfsr :
    nextHas (step { ready 0xEE050F11#32 0xFFFFFFFF#32 with aifsr := 7#32 })
      (fun t => t.adfsr == 0x0FC03FE0#32 && t.aifsr == 7#32) = true := by decide

theorem test_mrc_aifsr :
    exec (.mrcAifsr .al 6#4) { blank with aifsr := 0x00400000#32 } =
      .next { blank with
        aifsr := 0x00400000#32, pc := 0x104#32
        regs := blank.regs.set 6 (readAifsr Config.aifsrIndexRaz Config.resAifsr 0x00400000#32) } ∧
      readAifsr true 0#32 0x00400000#32 = 0x00400000#32 ∧ readAifsr false 0#32 0x00400000#32 = 0x00400000#32 :=
  ⟨rfl, rfl, rfl⟩

theorem test_mcr_aifsr :
    exec (.mcrAifsr .al 0#4) (writeGpr 0 0xFFFFFFFF#32 blank) =
      .next { writeGpr 0 0xFFFFFFFF#32 blank with
        pc := 0x104#32, aifsr := writeAifsr Config.aifsrIndexRaz 0xFFFFFFFF#32 } := rfl

theorem test_mrc_dfar :
    nextHas (step { ready 0xEE167F10#32 with dfar := 0x08001234#32 })
      (fun t => t.regs[7] == 0x08001234#32 && t.dfar == 0x08001234#32) = true := by decide

/-- A condition that passes only by its flag: `MCREQ` with Z = 1. -/
theorem test_mcr_dfar :
    nextHas (step { ready 0x0E060F10#32 7#32 with flags := ⟨false, true, false, false⟩ }) (fun t => t.dfar == 7#32) =
      true := by decide

theorem test_mrc_ifar :
    nextHas (step { ready 0xEE168F50#32 with ifar := 0x00000400#32 }) (fun t => t.regs[8] == 0x00000400#32) = true := by
  decide

theorem test_mcr_ifar :
    nextHas (step (ready 0xEE060F50#32 0x12345678#32))
      (fun t => t.ifar == 0x12345678#32 && t.regs[0] == 0x12345678#32) = true := by decide

/-- R100: `MCREQ` with Z = 0, in User mode, only advances. -/
theorem test_failed_condition :
    nextHas (step { ready 0x0E060F10#32 7#32 with privileged := false })
      (fun t => t.dfar == 0#32 && t.pc == 0x104#32 && t.trap == none) = true := by decide

/-- P4: in User mode the read traps at its own address. -/
theorem test_user_mode :
    nextHas (step { ready 0xEE160F50#32 0x55#32 with privileged := false, ifar := 0x400#32 })
      (fun t => t.regs[0] == 0x55#32 && t.trap == some ⟨.undefinedInstruction, 0x100#32⟩) = true := by decide

/-- L2.3: HI with C = 1 passes unless Z = 1; GE passes and LT fails with N = V = 1. -/
theorem test_conditions :
    condPassed .hi ⟨false, false, true, false⟩ = true ∧ condPassed .hi ⟨false, true, true, false⟩ = false ∧
      condPassed .ge ⟨true, false, false, true⟩ = true ∧ condPassed .lt ⟨true, false, false, true⟩ = false := by decide

/-! ### The environment (L2.4) and the run -/

theorem test_precise_data_abort :
    nextHas (step (withEvent (.preciseDataAbort 0x08001234#32 ⟨some 0#1, 0#1, 0b1101#4⟩ 1#1 none)))
      (fun t => t.dfsr == 0x0000080D#32 && t.dfar == 0x08001234#32 && t.trap == some ⟨.dataAbort, 0x100#32⟩) = true := by
  decide

theorem test_cache_store_parity :
    nextHas (step (withEvent
        (.preciseDataAbort 0x20000040#32 ⟨some 0#1, 1#1, 0b1001#4⟩ 1#1 (some (.cacheStore 0b0101#4 2#9)))))
      (fun t => t.dfsr == 0x00000C09#32 && t.dfar == 0x20000040#32) = true := by decide

theorem test_aux_word :
    auxWord 0b0101#4 0b00#2 2#9 &&& auxWMask = 0x05000040#32 ∧ auxWord 0#4 0b01#2 0#9 &&& auxWMaskNoIndex = 0x00400000#32 ∧
      0xFFFFFFFF#32 &&& auxWMaskNoIndex = 0x0FC00000#32 := by decide

theorem test_imprecise_data_abort :
    nextHas (step { withEvent (.impreciseDataAbort ⟨some 1#1, 1#1, 0b0110#4⟩ 1#1 none) with dfar := 0x11111111#32 })
      (fun t => t.dfsr == 0x00001C06#32 && t.dfar == 0x11111111#32 && t.regs[0] == 0#32) = true := by decide

theorem test_prefetch_abort :
    nextHas (step (withEvent (.prefetchAbort ⟨some 1#1, 0#1, 0b1000#4⟩ (some .itcm))))
      (fun t => t.ifsr == 0x00001008#32 && t.ifar == 0x100#32 && t.trap == some ⟨.prefetchAbort, 0x100#32⟩) = true := by
  decide

theorem test_interrupts :
    nextHas (step (withEvent .irq)) (fun t => t.trap == some ⟨.irq, 0x100#32⟩ && t.pc == 0x100#32) = true ∧
      nextHas (step (withEvent .fiq)) (fun t => t.trap == some ⟨.fiq, 0x100#32⟩) = true := by decide

/-- The schedule is passed one boundary a step: with no event at this one the instruction runs. -/
theorem test_quiet_boundary :
    nextHas (step { ready 0xEE060F50#32 7#32 with envFaults := true, events := [none, some .irq] })
      (fun t => t.ifar == 7#32 && t.events == [some .irq]) = true := by decide

/-- L2.3: one word at 0xFFFFFFFC is refused; at 0xFFFFFFF8 it runs. -/
theorem test_pc_wrap :
    step { blank with pc := 0xFFFFFFFC#32, pc0 := 0xFFFFFFFC#32, len := 1 } = .refused .pcWrap ∧
      nextHas (step (placeAtPc 0xEE060F50#32 { blank with pc := 0xFFFFFFF8#32 })) (fun t => t.pc == 0xFFFFFFFC#32) = true :=
  ⟨rfl, by decide⟩

theorem test_run_stops :
    step { blank with pc := 0x102#32 } = .refused .pcMisaligned ∧ step { blank with thumb := true } = .refused .thumbState ∧
      step blank = .fault .endOfRun ∧ step { blank with pc := 0x104#32 } = .refused .pcLeftProgram ∧
      step { blank with len := 1 } = .fault (.programByteAbsent 0x100#32) ∧
      step (ready 0xEE101F10#32) = .refused (.decode .undescribedRegister) := ⟨rfl, rfl, rfl, rfl, rfl, rfl⟩

/-- The machine behind the host's interface runs a fetched word from reset. -/
theorem test_core_runs_from_reset :
    nextHas (core.step (State.withFetchWord core.reset 32 0xEE060F50)) (fun t => t.ifar == 0#32 && t.pc == 4#32) = true := by
  decide

/-! ### A state and operands for the hypotheses of each statement -/

theorem ready_running (w r0 : Word) : Running (ready w r0) := by
  refine ⟨rfl, rfl, ?_, ?_, ?_, ?_⟩ <;> simp [ready, placeAtPc, blank, writeGpr]

theorem withEvent_running (e : EnvEvent) : Running (withEvent e) := by
  refine ⟨rfl, rfl, ?_, ?_, ?_, ?_⟩ <;> simp [withEvent, ready, placeAtPc, blank, writeGpr]

theorem withEvent_due (e : EnvEvent) : EventDue (withEvent e) e := ⟨rfl, rfl⟩

/-- DecodeOfEncodeIsInstruction, EncodeOfDecodeIsWord: the highest `Rd` and a condition below AL. -/
theorem test_witness_encoding :
    Instr.wf (.mcrIfar .le 14#4) = true ∧ encode (.mcrIfar .le 14#4) = 0xDE06EF50#32 ∧
      decodeWord 0xDE06EF50#32 = .ok (.mcrIfar .le 14#4) := ⟨rfl, rfl, rfl⟩

/-- RdFifteenIsRefused: an instruction and a word with `Rd` = 15, and the two registers beside it. -/
theorem test_witness_rd_fifteen :
    (Instr.mcrDfar .al 15#4).rd = 15#4 ∧ (Instr.mcrDfar .al 13#4).rd = 13#4 ∧ (Instr.mcrDfar .al 14#4).rd = 14#4 ∧
      (0xEE10FF10#32).extractLsb' 24 4 = 0b1110#4 ∧ (0xEE10FF10#32).getLsbD 4 = true ∧
      (0xEE10FF10#32).extractLsb' 28 4 ≠ 15#4 ∧ (0xEE10FF10#32).extractLsb' 8 4 = 15#4 ∧
      (0xEE10FF10#32).extractLsb' 12 4 = 15#4 := by decide

/-- OtherCoprocessorIsRefused, with `Rd` = 15 too. -/
theorem test_witness_other_coprocessor :
    (0xEE11FE10#32).extractLsb' 24 4 = 0b1110#4 ∧ (0xEE11FE10#32).getLsbD 4 = true ∧
      (0xEE11FE10#32).extractLsb' 28 4 ≠ 15#4 ∧ (0xEE11FE10#32).extractLsb' 8 4 ≠ 15#4 := by decide

/-- What UnknownPlaceIsRefusedAtDecode and UndescribedPlaceIsRefusedAtDecode ask of a state and a word. -/
def UndescribedPlace (s : State) (w : Word) (crns : List Nat) : Prop :=
  Running s ∧ Quiet s ∧ readBytes s.mem s.pc 4 = .ok (bytesOfWord true w) ∧ w.extractLsb' 24 4 = 0b1110#4 ∧
    w.getLsbD 4 = true ∧ w.extractLsb' 28 4 ≠ 15#4 ∧ w.extractLsb' 8 4 = 15#4 ∧ w.extractLsb' 12 4 ≠ 15#4 ∧
    tupleOf w ∉ describedRegisters.map Prod.snd ∧ (w.extractLsb' 16 4).toNat ∈ crns

/-- UnknownPlaceIsRefusedAtDecode: a place of c2 under a condition that fails, and the place of c5 next to IFSR. -/
theorem test_witness_unknown_place :
    UndescribedPlace (ready 0x0E120F10#32) 0x0E120F10#32 [2, 3, 4, 5, 8, 10, 12, 14] ∧
      UndescribedPlace (ready 0xEE150F50#32) 0xEE150F50#32 [2, 3, 4, 5, 8, 10, 12, 14] :=
  ⟨⟨ready_running _ _, .inl rfl, rfl, by decide⟩, ⟨ready_running _ _, .inl rfl, rfl, by decide⟩⟩

/-- UndescribedPlaceIsRefusedAtDecode: a place of c0, and the one between DFAR and IFAR. -/
theorem test_witness_undescribed_place :
    UndescribedPlace (ready 0xEE100F10#32) 0xEE100F10#32 [0, 1, 6, 7, 9, 11, 13, 15] ∧
      UndescribedPlace (ready 0xEE160F30#32) 0xEE160F30#32 [0, 1, 6, 7, 9, 11, 13, 15] :=
  ⟨⟨ready_running _ _, .inl rfl, rfl, by decide⟩, ⟨ready_running _ _, .inl rfl, rfl, by decide⟩⟩

/-- The sixteen result statements, FailedConditionOnlyAdvances, UserModeAccessIsUndefined: a passing condition in each mode
and a failing one. ReadAfterWriteGivesKeptBits, SctlrAlwaysZeroFields, SctlrAlwaysOneFields, DomainReadsZero and
RepeatedTransferChangesNothing ask for the first. -/
theorem test_witness_transfers :
    (condPassed .al blank.flags = true ∧ condPassed .ne blank.flags = true ∧ blank.privileged = true) ∧
      (condPassed .al { blank with privileged := false }.flags = true ∧ { blank with privileged := false }.privileged = false) ∧
      condPassed .eq blank.flags = false ∧ Instr.wf (.mrcSctlr .al (gprNum 0)) = true ∧
      Instr.wf (.mcrSctlr .eq (gprNum 14)) = true := by decide

/-- MrcFrame: a completed read, and one that traps. -/
theorem test_witness_mrc_frame :
    (Instr.mrcDfar .al 7#4).op = .mrc ∧
      exec (.mrcDfar .al 7#4) { blank with dfar := 9#32 } =
        .next { blank with dfar := 9#32, regs := blank.regs.set 7 9#32, pc := 0x104#32 } ∧
      exec (.mrcDfar .al 7#4) { blank with privileged := false } =
        .next { blank with privileged := false, trap := some ⟨.undefinedInstruction, 0x100#32⟩ } := ⟨rfl, rfl, rfl⟩

/-- McrFrame: a completed write, and one that traps. -/
theorem test_witness_mcr_frame :
    (Instr.mcrDfar .al 7#4).op = .mcr ∧
      exec (.mcrDfar .al 7#4) (writeGpr 7 9#32 blank) = .next { writeGpr 7 9#32 blank with dfar := 9#32, pc := 0x104#32 } ∧
      exec (.mcrDfar .al 7#4) { blank with privileged := false } =
        .next { blank with privileged := false, trap := some ⟨.undefinedInstruction, 0x100#32⟩ } := ⟨rfl, rfl, rfl⟩

/-- StepRunsDecodedInstruction, PrivilegedStepCompletes: a word of the program, at rest and at a boundary the schedule
skips. -/
theorem test_witness_decoded_step :
    Running (ready 0xEE060F50#32) ∧ Quiet (ready 0xEE060F50#32) ∧
      Quiet { ready 0xEE060F50#32 with envFaults := true } ∧
      Quiet { ready 0xEE060F50#32 with envFaults := true, events := [none, some .irq] } ∧
      (ready 0xEE060F50#32).privileged = true ∧
      readBytes (ready 0xEE060F50#32).mem 0x100#32 4 = .ok [0xEE#8, 0x06#8, 0x0F#8, 0x50#8] ∧
      decodeBytes [0xEE#8, 0x06#8, 0x0F#8, 0x50#8] = .ok (.mcrIfar .al 0#4, []) :=
  ⟨ready_running _ _, .inl rfl, .inr (.inl rfl), .inr (.inr rfl), rfl, rfl, rfl⟩

/-- BigEndianWordAtPcRuns. -/
theorem test_witness_big_endian_word :
    Running (ready 0xEE060F50#32) ∧ (ready 0xEE060F50#32).envFaults = false ∧
      (ready 0xEE060F50#32).mem.read 0x100 = some ((encode (.mcrIfar .al 0#4)).extractLsb' 24 8) ∧
      (ready 0xEE060F50#32).mem.read 0x101 = some ((encode (.mcrIfar .al 0#4)).extractLsb' 16 8) ∧
      (ready 0xEE060F50#32).mem.read 0x102 = some ((encode (.mcrIfar .al 0#4)).extractLsb' 8 8) ∧
      (ready 0xEE060F50#32).mem.read 0x103 = some ((encode (.mcrIfar .al 0#4)).extractLsb' 0 8) :=
  ⟨ready_running _ _, rfl, rfl, rfl, rfl, rfl⟩

/-- TrapEndsTheRun, and what the clauses of HandlerRunStartsFromTrapState ask: a trap in ARM state, and a handler of one word
that ends at the last address. -/
theorem test_witness_trap :
    (raise .irq blank).trap = some ⟨.irq, 0x100#32⟩ ∧ (raise .irq blank).thumb = false ∧
      [0xEE150F10#32] ≠ [] ∧ (0xFFFFFFF8#32).extractLsb' 0 2 = 0#2 ∧
      (0xFFFFFFF8#32).toNat + 4 * [0xEE150F10#32].length ≤ 0xFFFFFFFC := by decide

/-- BadProgramsAreRefused: one state for each clause, the last with the least end that is refused. -/
theorem test_witness_bad_programs :
    ({ blank with thumb := true }.trap = none ∧ { blank with thumb := true }.thumb = true) ∧
      ({ blank with pc := 0x102#32 }.thumb = false ∧ (0x102#32).extractLsb' 0 2 ≠ 0#2) ∧
      ({ blank with pc0 := 0x101#32 }.thumb = false ∧ (0x101#32).extractLsb' 0 2 ≠ 0#2) ∧
      (0xFFFFFFFC#32).extractLsb' 0 2 = 0#2 ∧ 0xFFFFFFFC < (0xFFFFFFFC#32).toNat + 4 * 1 := by decide

/-- RunEndsAtProgramEnd: at the end 0xFFFFFFFC of a one-word program, before it and past it. -/
theorem test_witness_run_ends :
    (0xFFFFFFF8#32).toNat + 4 * 1 ≤ 0xFFFFFFFC ∧ (0xFFFFFFFC#32).toNat = (0xFFFFFFF8#32).toNat + 4 * 1 ∧
      step { blank with pc := 0xFFFFFFFC#32, pc0 := 0xFFFFFFF8#32, len := 1 } = .fault .endOfRun ∧
      step { blank with pc := 0xFFFFFFF4#32, pc0 := 0xFFFFFFF8#32, len := 1 } = .refused .pcLeftProgram ∧
      step { blank with pc := 0xFFFFFFFC#32, pc0 := 0xFFFFFFF4#32, len := 1 } = .refused .pcLeftProgram :=
  ⟨by decide, by decide, rfl, rfl, rfl⟩

/-- QuietStepTrapsOnlyInUserMode, UserModeChangesNothing, UserModeLearnsNothingOfCp15: a trapping and a skipping step in
User mode with no event due. -/
theorem test_witness_user_steps :
    Quiet { ready 0xEE060F50#32 with privileged := false } ∧ { ready 0xEE060F50#32 with privileged := false }.privileged = false ∧
      step { ready 0xEE060F50#32 with privileged := false } =
        .next { ready 0xEE060F50#32 with privileged := false, trap := some ⟨.undefinedInstruction, 0x100#32⟩ } ∧
      step { ready 0x0E060F50#32 with privileged := false } =
        .next { ready 0x0E060F50#32 with privileged := false, pc := 0x104#32 } := ⟨.inl rfl, rfl, rfl, rfl⟩

/-- PreciseDataAbortLatches, for an external abort and for each parity form, a cache store's with every bit set. -/
theorem test_witness_precise_data_abort :
    ∀ f ∈ [FaultCode.mk (some 1#1) 1#1 15#4, ⟨none, 0#1, 0#4⟩],
    ∀ p ∈ [none, some (DataParity.cacheStore 15#4 511#9), some (.cacheOther 511#9), some .itcm, some .dtcm],
      Running (withEvent (.preciseDataAbort 0xFFFFFFFF#32 f 1#1 p)) ∧
        EventDue (withEvent (.preciseDataAbort 0xFFFFFFFF#32 f 1#1 p)) (.preciseDataAbort 0xFFFFFFFF#32 f 1#1 p) :=
  fun _ _ _ _ => ⟨withEvent_running _, withEvent_due _⟩

/-- ImpreciseDataAbortKeepsDfar, likewise. -/
theorem test_witness_imprecise_data_abort :
    ∀ f ∈ [FaultCode.mk (some 1#1) 1#1 15#4, ⟨none, 0#1, 0#4⟩],
    ∀ p ∈ [none, some (DataParity.cacheStore 15#4 511#9), some (.cacheOther 511#9), some .itcm, some .dtcm],
      Running (withEvent (.impreciseDataAbort f 1#1 p)) ∧
        EventDue (withEvent (.impreciseDataAbort f 1#1 p)) (.impreciseDataAbort f 1#1 p) :=
  fun _ _ _ _ => ⟨withEvent_running _, withEvent_due _⟩

/-- PrefetchAbortLatches, likewise. -/
theorem test_witness_prefetch_abort :
    ∀ f ∈ [FaultCode.mk (some 1#1) 1#1 15#4, ⟨none, 0#1, 0#4⟩],
    ∀ p ∈ [none, some ParitySource.cache, some .itcm, some .dtcm],
      Running (withEvent (.prefetchAbort f p)) ∧ EventDue (withEvent (.prefetchAbort f p)) (.prefetchAbort f p) :=
  fun _ _ _ _ => ⟨withEvent_running _, withEvent_due _⟩

/-- InterruptEndsTheRun, both interrupts. -/
theorem test_witness_interrupts :
    Running (withEvent .irq) ∧ EventDue (withEvent .irq) .irq ∧ Running (withEvent .fiq) ∧ EventDue (withEvent .fiq) .fiq :=
  ⟨withEvent_running _, withEvent_due _, withEvent_running _, withEvent_due _⟩

/-- A launch of two words that end at the last address. -/
def twoWords : Launch :=
  { pc0 := 0xFFFFFFF4#32, program := [0xEE110F10#32, 0xEE010F10#32], privileged := true, thumb := false
    flags := ⟨false, false, false, false⟩, regs := Vector.replicate 15 0#32, cp15 := none, envFaults := false, events := [] }

/-- LaunchPlacesProgram: the last word of the program that ends highest, without CP15 words given and with them. -/
theorem test_witness_launch :
    twoWords.cp15 = none ∧ { twoWords with cp15 := some ⟨1, 2, 3, 4, 5, 6, 7, 8⟩ }.cp15 = some ⟨1, 2, 3, 4, 5, 6, 7, 8⟩ ∧
      twoWords.thumb = false ∧ twoWords.program ≠ [] ∧ twoWords.pc0.extractLsb' 0 2 = 0#2 ∧
      1 < twoWords.program.length ∧ twoWords.pc0.toNat + 4 * twoWords.program.length ≤ 0xFFFFFFFC := by decide

/-- R137: the program's bytes, and CP15 words that the launch gives. -/
theorem test_launch :
    (launch twoWords).mem.read 0xFFFFFFF8 = some 0xEE#8 ∧ (launch twoWords).mem.read 0xFFFFFFFB = some 0x10#8 ∧
      (launch { twoWords with cp15 := some ⟨1, 2, 3, 4, 5, 6, 7, 8⟩ }).ifsr = 4#32 := by decide

/-- StepKeepsInvariant. -/
theorem test_witness_invariant :
    Inv (ready 0xEE060F50#32 7#32) ∧
      step (ready 0xEE060F50#32 7#32) = .next { ready 0xEE060F50#32 7#32 with ifar := 7#32, pc := 0x104#32 } :=
  ⟨⟨by decide, rfl, rfl, rfl, rfl, rfl, rfl, BitVec.zero_and⟩, rfl⟩

/-- StepKeepsModeFlagsAndProgram, NmfiKeepsItsResetValue: a step that changes SCTLR. -/
theorem test_witness_sctlr_step :
    ∃ t, step { ready 0xEE010F10#32 0xFFFFFFFF#32 with sctlr := 0x08000000#32 } = .next t ∧ t.sctlr.getLsbD 0 = true := by
  refine ⟨_, rfl, ?_⟩
  show (writeSctlr Config.nmfiWritable 0x08000000#32 0xFFFFFFFF#32).getLsbD 0 = true
  cases Config.nmfiWritable <;> decide

/-- OnlyMcrAndEventsWriteCp15: an `MCR` and an event that change a word. -/
theorem test_witness_cp15_writers :
    (∃ t, step (ready 0xEE060F50#32 7#32) = .next t ∧ storedWord .ifar t ≠ storedWord .ifar (ready 0xEE060F50#32 7#32)) ∧
      ∃ t, step (withEvent (.prefetchAbort ⟨some 0#1, 0#1, 0#4⟩ none)) = .next t ∧
        storedWord .ifar t ≠ storedWord .ifar (withEvent (.prefetchAbort ⟨some 0#1, 0#1, 0#4⟩ none)) :=
  ⟨⟨_, rfl, by decide⟩, ⟨_, rfl, by decide⟩⟩

end Sys2Proof.Tests
end

section
/-! Proofs of the statements of family 10_state.md: the fixed fields of a read (R16 to R28, R41, R43), the invariant of
every step, the stored NMFI bit (R20), and that SCTLR and ACTLR decide no outcome (R14). -/

namespace Sys2Proof.Machine

/-! ### A transfer that is carried out -/

/-- R80: a read in a privileged mode whose condition passes completes. -/
theorem exec_read_acts {i : Instr} {d : Fin 15} {s : State} (ho : i.op = .mrc) (hd : i.rd = gprNum d)
    (hc : condPassed i.cond s.flags = true) (hp : s.privileged = true) :
    exec i s = .next (advance (writeGpr d (readCp15 i.reg s) s)) := by
  rw [exec_eq, ho, hd]
  exact guarded_acts (gprIndex_gprNum d) hc hp

/-- R81: a write in a privileged mode whose condition passes completes. -/
theorem exec_write_acts {i : Instr} {d : Fin 15} {s : State} (ho : i.op = .mcr) (hd : i.rd = gprNum d)
    (hc : condPassed i.cond s.flags = true) (hp : s.privileged = true) :
    exec i s = .next (advance (writeCp15 i.reg (readGpr s d) s)) := by
  rw [exec_eq, ho, hd]
  exact guarded_acts (gprIndex_gprNum d) hc hp

/-- The register written holds the value written (R10). -/
theorem writeGpr_regs_same (d : Fin 15) (v : Word) (s : State) : (writeGpr d v s).regs[d] = v := by simp

/-! ### Fixed fields of a read -/

/-- A bit of SCTLR in no mask of R33 but the zeros' reads 0. -/
theorem readSctlr_bit_false {k : Nat} (h : (sctlrStored ||| sctlrOnes ||| sctlrRes).getLsbD k = false) (res w : Word) :
    (readSctlr res w).getLsbD k = false := by
  simp only [BitVec.getLsbD_or, Bool.or_eq_false_iff] at h
  obtain ⟨⟨hs, ho⟩, hr⟩ := h
  simp [readSctlr, hs, ho, hr]

/-- A bit of `SCTLR_ONES` reads 1 (R33). -/
theorem readSctlr_bit_true {k : Nat} (h : sctlrOnes.getLsbD k = true) (res w : Word) :
    (readSctlr res w).getLsbD k = true := by
  simp [readSctlr, h]

/-- A field in neither the stored nor the reserved mask reads 0. -/
theorem readStored_field_zero {stored resMask : Word} {lo n : Nat} (hs : stored.extractLsb' lo n = 0#n)
    (hr : resMask.extractLsb' lo n = 0#n) (res w : Word) :
    (readStored stored resMask res w).extractLsb' lo n = 0#n := by
  simp [readStored, BitVec.extractLsb'_or, BitVec.extractLsb'_and, hs, hr]

/-- Reading SCTLR, and writing it and reading it again, complete in a privileged mode when the condition passes; what `Rd`
then holds is what a read of some stored word gives (R33, R80, R81). -/
theorem sctlr_read_and_write_then_read {c : Cond} {s : State} (d : Fin 15) (hc : condPassed c s.flags = true)
    (hp : s.privileged = true) :
    ∃ t u v, exec (.mrcSctlr c (gprNum d)) s = .next t ∧
      exec (.mcrSctlr c (gprNum d)) s = .next u ∧ exec (.mrcSctlr c (gprNum d)) u = .next v ∧
      ∀ x ∈ [t.regs[d], v.regs[d]], ∃ w, x = readSctlr Config.resSctlr w := by
  refine ⟨_, _, _, exec_read_acts rfl rfl hc hp, exec_write_acts rfl rfl hc hp,
    exec_read_acts rfl rfl hc hp, fun x hx => ?_⟩
  simp only [advance_regs, writeGpr_regs_same, List.mem_cons, List.not_mem_nil, or_false] at hx
  rcases hx with rfl | rfl <;> exact ⟨_, rfl⟩

/-- Settles O33: bits 29 and 28 lie in no mask of a read of SCTLR. -/
theorem sctlrAlwaysZeroFields : Obligations.SctlrAlwaysZeroFields := by
  intro c d s hc hp
  obtain ⟨t, u, v, ht, hu, hv, hread⟩ := sctlr_read_and_write_then_read d hc hp
  refine ⟨t, u, v, ht, hu, hv, fun x hx => ?_⟩
  obtain ⟨w, rfl⟩ := hread x hx
  exact ⟨readSctlr_bit_false (by decide) _ _, readSctlr_bit_false (by decide) _ _⟩

/-- Settles O34: bits 31, 21 and 11 are those of `SCTLR_ONES`. -/
theorem sctlrAlwaysOneFields : Obligations.SctlrAlwaysOneFields := by
  intro c d s hc hp
  obtain ⟨t, u, v, ht, hu, hv, hread⟩ := sctlr_read_and_write_then_read d hc hp
  refine ⟨t, u, v, ht, hu, hv, fun x hx => ?_⟩
  obtain ⟨w, rfl⟩ := hread x hx
  exact ⟨readSctlr_bit_true (by decide) _ _, readSctlr_bit_true (by decide) _ _, readSctlr_bit_true (by decide) _ _⟩

/-- Settles O35: bits 7:4 lie in neither mask of a read of DFSR or IFSR. -/
theorem domainReadsZero : Obligations.DomainReadsZero := by
  intro c d s hc hp
  refine ⟨_, _, exec_read_acts rfl rfl hc hp, ?_, exec_read_acts rfl rfl hc hp, ?_⟩
  all_goals
    rw [advance_regs, writeGpr_regs_same]
    exact readStored_field_zero (by decide) (by decide) _ _

/-! ### The invariant -/

/-- A word masked by `m` has no bit of `k` when the masks are disjoint. -/
theorem and_mask_and_eq_zero {m k : Word} (h : m &&& k = 0#32) (v : Word) : v &&& m &&& k = 0#32 := by
  rw [BitVec.and_assoc, h, BitVec.and_zero]

/-- A write of SCTLR stores no bit outside its mask that was not stored before (R33). -/
theorem writeSctlr_and_eq_zero {b : Bool} {k w : Word} (hw : w &&& k = 0#32) (hk : sctlrWMask b &&& k = 0#32)
    (v : Word) : writeSctlr b w v &&& k = 0#32 := by
  have hold : w &&& ~~~sctlrWMask b &&& k = 0#32 := by
    rw [BitVec.and_assoc, BitVec.and_comm (~~~_), ← BitVec.and_assoc, hw, BitVec.zero_and]
  rw [writeSctlr, BitVec.and_or_distrib_right, hold, and_mask_and_eq_zero hk, BitVec.or_zero]

/-- No write mask of SCTLR reaches a bit that is fixed or reserved (R33). -/
theorem sctlrWMask_and_unstored (b : Bool) : sctlrWMask b &&& 0xB4F78FF8#32 = 0#32 := by cases b <;> decide

/-- The write mask of AIFSR is disjoint from the bits the invariant keeps at 0, with Index kept or not (R46). -/
theorem aifsrWMask_and_unstored (b : Bool) :
    aifsrWMask b &&& (if b then 0xF03FFFFF#32 else 0xF03FC01F#32) = 0#32 := by cases b <;> decide

/-- What a prefetch abort writes of AIFSR lies within its write mask, with Index kept or not (R46, R116). -/
theorem auxWMaskNoIndex_and_unstored (b : Bool) :
    auxWMaskNoIndex &&& (if b then 0xF03FFFFF#32 else 0xF03FC01F#32) = 0#32 := by cases b <;> decide

/-- The word DFSR latches has no bit outside the write mask of DFSR (R114). -/
theorem dfsrWord_and_unstored (sd rw s : BitVec 1) (status : BitVec 4) :
    dfsrWord sd rw s status &&& 0xFFFFE3F0#32 = 0#32 := by revert sd rw s status; decide

/-- The word IFSR latches has no bit outside the write mask of IFSR (R116). -/
theorem ifsrWord_and_unstored (sd s : BitVec 1) (status : BitVec 4) :
    ifsrWord sd s status &&& 0xFFFFEBF0#32 = 0#32 := by revert sd s status; decide

theorem Inv.advance {s : State} (h : Inv s) : Inv (advance s) := { h with pcAligned := aligned_add_four h.pcAligned }

theorem Inv.raise {s : State} (h : Inv s) (k : TrapKind) : Inv (raise k s) := { h with }

theorem Inv.writeGpr {s : State} (h : Inv s) (i : Fin 15) (v : Word) : Inv (writeGpr i v s) := { h with }

theorem Inv.passBoundary {s : State} (h : Inv s) : Inv (passBoundary s) := by
  rw [passBoundary_eq]
  exact { h with }

theorem Inv.writeCp15 {s : State} (h : Inv s) (r : Cp15Reg) (v : Word) : Inv (writeCp15 r v s) := by
  cases r with
  | sctlr => exact { h with sctlrStored := writeSctlr_and_eq_zero h.sctlrStored (sctlrWMask_and_unstored _) v }
  | actlr => exact { h with actlrStored := and_mask_and_eq_zero (by decide) v }
  | dfsr => exact { h with dfsrStored := and_mask_and_eq_zero (by decide) v }
  | ifsr => exact { h with ifsrStored := and_mask_and_eq_zero (by decide) v }
  | adfsr => exact { h with adfsrStored := and_mask_and_eq_zero (by decide) v }
  | aifsr => exact { h with aifsrStored := and_mask_and_eq_zero (aifsrWMask_and_unstored _) v }
  | dfar => exact { h with }
  | ifar => exact { h with }

theorem Inv.latchDataFault {s : State} (h : Inv s) (f : FaultCode) (rw : BitVec 1) (p : Option DataParity) :
    Inv (latchDataFault f rw p s) := by
  obtain ⟨sd, aux, k, -, -, hlatch⟩ := latchDataFault_spec f rw p s
  rw [hlatch]
  exact { h with
    dfsrStored := dfsrWord_and_unstored sd rw f.s f.status
    adfsrStored := and_mask_and_eq_zero (by decide) aux }

theorem Inv.latchInstrFault {s : State} (h : Inv s) (f : FaultCode) (p : Option ParitySource) :
    Inv (latchInstrFault f p s) := by
  obtain ⟨sd, aux, k, -, -, hlatch⟩ := latchInstrFault_spec f p s
  rw [hlatch]
  exact { h with
    ifsrStored := ifsrWord_and_unstored sd f.s f.status
    aifsrStored := and_mask_and_eq_zero (auxWMaskNoIndex_and_unstored _) aux }

theorem Inv.fireEvent {s : State} (h : Inv s) (e : EnvEvent) : Inv (fireEvent e s) := by
  cases e with
  | preciseDataAbort a f rw p =>
    have hlatch : Inv { Machine.latchDataFault f rw p s with dfar := a } := { h.latchDataFault f rw p with }
    exact hlatch.raise .dataAbort
  | impreciseDataAbort f rw p => exact (h.latchDataFault f rw p).raise .dataAbort
  | prefetchAbort f p =>
    have hlatch : Inv { Machine.latchInstrFault f p s with ifar := s.pc } := { h.latchInstrFault f p with }
    exact hlatch.raise .prefetchAbort
  | irq => exact h.raise .irq
  | fiq => exact h.raise .fiq

/-- Every instruction keeps the invariant. -/
theorem Inv.exec {i : Instr} {s t : State} (h : Inv s) (he : exec i s = .next t) : Inv t := by
  obtain ⟨-, rfl⟩ | ⟨-, -, rfl⟩ | ⟨k, -, -, -, ⟨-, rfl⟩ | ⟨-, rfl⟩⟩ := exec_cases he
  · exact h.advance
  · exact h.raise .undefinedInstruction
  · exact (h.writeGpr k _).advance
  · exact (h.writeCp15 i.reg _).advance

/-- Settles O49, from what each operation of a step keeps. -/
theorem stepKeepsInvariant : Obligations.StepKeepsInvariant := by
  intro s t h hstep
  obtain ⟨e, -, -, rfl⟩ | ⟨i, -, -, -, he⟩ := step_cases hstep
  · exact h.passBoundary.fireEvent e
  · exact h.passBoundary.exec he

/-! ### What a step does to SCTLR -/

/-- A bit outside the write mask keeps its stored value through a write of SCTLR (R33). -/
theorem writeSctlr_bit_kept {b : Bool} {k : Nat} (h : (sctlrWMask b).getLsbD k = false) (w v : Word) :
    (writeSctlr b w v).getLsbD k = w.getLsbD k := by
  by_cases hk : k < 32
  · simp only [writeSctlr, BitVec.getLsbD_or, BitVec.getLsbD_and, BitVec.getLsbD_not, h, hk]
    simp
  · simp [BitVec.getLsbD_of_ge _ _ (Nat.le_of_not_lt hk)]

/-- A write of a CP15 register leaves SCTLR, or writes it through its write function. -/
theorem writeCp15_sctlr_cases (r : Cp15Reg) (v : Word) (s : State) :
    (writeCp15 r v s).sctlr = s.sctlr ∨ (writeCp15 r v s).sctlr = writeSctlr Config.nmfiWritable s.sctlr v := by
  by_cases hr : r = .sctlr
  · subst hr
    exact .inr rfl
  · exact .inl (storedWord_writeCp15_other (Ne.symm hr) v s)

/-- An instruction leaves SCTLR, or writes it through its write function. -/
theorem exec_sctlr_cases {i : Instr} {s t : State} (h : exec i s = .next t) :
    t.sctlr = s.sctlr ∨ ∃ v, t.sctlr = writeSctlr Config.nmfiWritable s.sctlr v := by
  obtain ⟨-, rfl⟩ | ⟨-, -, rfl⟩ | ⟨k, -, -, -, ⟨-, rfl⟩ | ⟨-, rfl⟩⟩ := exec_cases h
  · exact .inl rfl
  · exact .inl rfl
  · exact .inl rfl
  · exact (writeCp15_sctlr_cases i.reg (readGpr s k) s).imp id fun hw => ⟨_, hw⟩

/-- A step leaves SCTLR, or writes it through its write function. -/
theorem step_sctlr_cases {s t : State} (h : step s = .next t) :
    t.sctlr = s.sctlr ∨ ∃ v, t.sctlr = writeSctlr Config.nmfiWritable s.sctlr v := by
  obtain ⟨e, -, -, rfl⟩ | ⟨i, -, -, -, he⟩ := step_cases h
  · obtain ⟨_, _, _, _, _, _, _, _, hfire⟩ := fireEvent_frame e (passBoundary s)
    exact .inl (by simp [hfire])
  · simpa using exec_sctlr_cases he

/-- Settles O52: bit 27 is outside the write mask of SCTLR unless `NMFI_WRITABLE`. -/
theorem nmfiKeepsItsResetValue : Obligations.NmfiKeepsItsResetValue := by
  intro s t hstep
  by_cases hn : Config.nmfiWritable = true
  · exact .inl hn
  · right
    obtain hkept | ⟨v, hwrite⟩ := step_sctlr_cases hstep
    · rw [hkept]
    · rw [hwrite, Bool.eq_false_of_not_eq_true hn]
      exact writeSctlr_bit_kept (by decide) _ _

/-! ### SCTLR and ACTLR decide no outcome -/

/-- The state with other general registers and other words in SCTLR and ACTLR; `MRC` of those two reaches `Rd`. -/
def withControl (rs : Vector Word 15) (x y : Word) (s : State) : State := { s with regs := rs, sctlr := x, actlr := y }

/-- Two states that differ in the general registers, SCTLR and ACTLR at most. -/
def AgreeButControl (t u : State) : Prop := ∃ rs x y, u = withControl rs x y t

/-- Two answers of one kind: for one reason, or with next states that agree as above. -/
inductive OutcomesAgree : Answer → Answer → Prop where
  | next {t u : State} (h : AgreeButControl t u) : OutcomesAgree (.next t) (.next u)
  | fault (f : Fault) : OutcomesAgree (.fault f) (.fault f)
  | refused (r : Refusal) : OutcomesAgree (.refused r) (.refused r)

theorem AgreeButControl.advance {t u : State} (h : AgreeButControl t u) : AgreeButControl (advance t) (advance u) := by
  obtain ⟨rs, x, y, rfl⟩ := h
  exact ⟨rs, x, y, rfl⟩

theorem AgreeButControl.writeGpr {t u : State} (h : AgreeButControl t u) (i : Fin 15) (v v' : Word) :
    AgreeButControl (writeGpr i v t) (writeGpr i v' u) := by
  obtain ⟨rs, x, y, rfl⟩ := h
  exact ⟨rs.set i v', x, y, rfl⟩

theorem AgreeButControl.writeCp15 {t u : State} (h : AgreeButControl t u) (r : Cp15Reg) (v : Word) :
    AgreeButControl (writeCp15 r v t) (writeCp15 r v u) := by
  obtain ⟨rs, x, y, rfl⟩ := h
  cases r <;> exact ⟨_, _, _, rfl⟩

section
variable (rs : Vector Word 15) (x y : Word) (s : State)

@[simp] theorem withControl_flags : (withControl rs x y s).flags = s.flags := rfl
@[simp] theorem withControl_privileged : (withControl rs x y s).privileged = s.privileged := rfl

/-- The checks of the boundary read neither a general register nor a CP15 word. -/
theorem boundary_withControl : boundary (withControl rs x y s) = boundary s := rfl

/-- The fetch reads memory and the pc alone. -/
theorem fetch_withControl : fetch (withControl rs x y s) = fetch s := rfl

theorem passBoundary_withControl : passBoundary (withControl rs x y s) = withControl rs x y (passBoundary s) := by
  simp only [passBoundary_eq]
  rfl

theorem drawSd_withControl (f : FaultCode) :
    drawSd f (withControl rs x y s) = ((drawSd f s).1, withControl rs x y (drawSd f s).2) := by
  unfold drawSd
  cases f.sd <;> rfl

theorem drawDataAux_withControl (p : Option DataParity) :
    drawDataAux p (withControl rs x y s) = ((drawDataAux p s).1, withControl rs x y (drawDataAux p s).2) := by
  rcases p with _ | _ | _ | _ | _ <;> rfl

theorem drawInstrAux_withControl (p : Option ParitySource) :
    drawInstrAux p (withControl rs x y s) = ((drawInstrAux p s).1, withControl rs x y (drawInstrAux p s).2) := by
  cases p <;> rfl

theorem latchDataFault_withControl (f : FaultCode) (rw : BitVec 1) (p : Option DataParity) :
    latchDataFault f rw p (withControl rs x y s) = withControl rs x y (latchDataFault f rw p s) := by
  simp only [latchDataFault, drawSd_withControl, drawDataAux_withControl]
  rfl

theorem latchInstrFault_withControl (f : FaultCode) (p : Option ParitySource) :
    latchInstrFault f p (withControl rs x y s) = withControl rs x y (latchInstrFault f p s) := by
  simp only [latchInstrFault, drawSd_withControl, drawInstrAux_withControl]
  rfl

/-- What an event latches depends on no general register and no control word, and it leaves them. -/
theorem fireEvent_withControl (e : EnvEvent) :
    fireEvent e (withControl rs x y s) = withControl rs x y (fireEvent e s) := by
  cases e with
  | preciseDataAbort a f rw p => simp only [fireEvent, latchDataFault_withControl]; rfl
  | impreciseDataAbort f rw p => simp only [fireEvent, latchDataFault_withControl]; rfl
  | prefetchAbort f p => simp only [fireEvent, latchInstrFault_withControl]; rfl
  | irq => rfl
  | fiq => rfl

/-- A guarded transfer looks at the flags and the mode alone: its outcomes agree if its act's do. -/
theorem guarded_withControl {act : Fin 15 → State → State} (c : Cond) (d : RegNum)
    (hact : ∀ i, AgreeButControl (act i s) (act i (withControl rs x y s))) :
    OutcomesAgree (guarded c d act s) (guarded c d act (withControl rs x y s)) := by
  unfold guarded
  cases gprIndex d with
  | none => exact .refused _
  | some i =>
    rw [withControl_flags, withControl_privileged]
    dsimp only
    split_ifs
    · exact .next (hact i).advance
    · exact .next ⟨rs, x, y, rfl⟩
    · exact .next ⟨rs, x, y, rfl⟩

/-- With the same general registers and any control words an instruction has the same outcome: `MRC` may put another value
into `Rd`, and `MCR` writes the same value. -/
theorem exec_withControl (i : Instr) : OutcomesAgree (exec i s) (exec i (withControl s.regs x y s)) := by
  have hagree : AgreeButControl s (withControl s.regs x y s) := ⟨_, _, _, rfl⟩
  rw [exec_eq, exec_eq]
  cases i.op with
  | mrc => exact guarded_withControl _ _ _ _ _ _ fun k => hagree.writeGpr k _ _
  | mcr => exact guarded_withControl _ _ _ _ _ _ fun k => hagree.writeCp15 i.reg (readGpr s k)

/-- With any control words a step has the same outcome. -/
theorem step_withControl : OutcomesAgree (step s) (step (withControl s.regs x y s)) := by
  unfold step
  rw [boundary_withControl, fetch_withControl, passBoundary_withControl]
  cases boundary s with
  | fault f => exact .fault f
  | refused r => exact .refused r
  | next o =>
    cases o with
    | some e => exact .next ⟨_, _, _, fireEvent_withControl _ x y _ e⟩
    | none =>
      cases fetch s with
      | fault f => exact .fault f
      | refused r => exact .refused r
      | next i => simpa using exec_withControl x y (passBoundary s) i

end

/-- Settles O56: the outcomes agree, and states that agree but for the control words share all that is named. -/
theorem controlBitsDecideNoOutcome : Obligations.ControlBitsDecideNoOutcome := by
  intro s x y
  have hagree : OutcomesAgree (step s) (step { s with sctlr := x, actlr := y }) := step_withControl x y s
  revert hagree
  generalize step s = a, step { s with sctlr := x, actlr := y } = b
  intro hagree
  cases hagree with
  | next h =>
    obtain ⟨rs, x', y', rfl⟩ := h
    exact ⟨rfl, rfl, rfl, rfl, rfl, rfl, rfl, rfl, rfl, rfl, rfl, rfl⟩
  | fault f => rfl
  | refused r => rfl

end Sys2Proof.Machine
end

section
/-! Proofs of the statements of family 20_memory.md: a read after a write of the same register (R61), a transfer done
twice over (R58), and the instruction a step finds at `pc` (R56). -/

namespace Sys2Proof.Machine

/-! ### A read after a write -/

/-- What was stored through a mask reads back as it was kept, with the reserved bits added; the masks as literals. -/
theorem readStored_and_mask {m resMask m' resMask' : Word} (hm : m = m') (hres : resMask = resMask') (res v : Word) :
    readStored m resMask res (v &&& m) = (v &&& m') ||| (res &&& resMask') := by
  subst hm hres
  rw [readStored, and_mask_idem]

/-- NMFI is the one stored bit of SCTLR that a write can leave, and only if it is not writable (R20, R33). -/
theorem not_sctlrWMask_and_sctlrStored (b : Bool) :
    ~~~sctlrWMask b &&& sctlrStored = if b then 0#32 else 0x08000000#32 := by cases b <;> decide

/-- Every bit a write of SCTLR reaches is stored (R33). -/
theorem sctlrWMask_and_sctlrStored (b : Bool) : sctlrWMask b &&& sctlrStored = sctlrWMask b := by cases b <;> decide

/-- SCTLR after a write: the written value in the write mask, NMFI as it was if it is not writable (R33). -/
theorem writeSctlr_and_sctlrStored (b : Bool) (w v : Word) :
    writeSctlr b w v &&& sctlrStored =
      if b then v &&& 0x4B087007#32 else (v &&& 0x43087007#32) ||| (w &&& 0x08000000#32) := by
  rw [writeSctlr, BitVec.and_or_distrib_right, BitVec.and_assoc, BitVec.and_assoc, not_sctlrWMask_and_sctlrStored,
    sctlrWMask_and_sctlrStored, sctlrWMask_eq]
  cases b
  · exact BitVec.or_comm _ _
  · simp

/-- What a read of SCTLR gives after a write of it, the masks as literals (R33). -/
theorem readSctlr_writeSctlr (b : Bool) (res w v : Word) :
    readSctlr res (writeSctlr b w v) =
      (if b then v &&& 0x4B087007#32 else (v &&& 0x43087007#32) ||| (w &&& 0x08000000#32)) ||| 0x80200800#32 |||
        (res &&& 0x04D787F8#32) := by
  rw [readSctlr, writeSctlr_and_sctlrStored, sctlrOnes_eq, sctlrRes_eq]

/-- R61: `MCR` and then `MRC` of a register complete in a privileged mode, and the second `Rd` holds what the register
reads once the first `Rd` is written to it. -/
theorem exec_write_then_read (r : Cp15Reg) {c c' : Cond} (d d' : Fin 15) {s : State}
    (hc : condPassed c s.flags = true) (hc' : condPassed c' s.flags = true) (hp : s.privileged = true) {v : Word}
    (hv : readCp15 r (writeCp15 r s.regs[d] s) = v) :
    ∃ t u, exec (.ofParts .mcr r c (gprNum d)) s = .next t ∧ exec (.ofParts .mrc r c' (gprNum d')) t = .next u ∧
      u.regs[d'] = v ∧ u.pc = s.pc + 8#32 := by
  refine ⟨_, _, exec_write_acts (ofParts_op _ _ _ _) (ofParts_rd _ _ _ _) (by simpa using hc) hp,
    exec_read_acts (ofParts_op _ _ _ _) (ofParts_rd _ _ _ _) (by simpa using hc') (by simpa using hp), ?_, ?_⟩
  · rw [advance_regs, writeGpr_regs_same, ofParts_reg, ofParts_reg, ← hv]
    exact readCp15_congr (by cases r <;> rfl)
  · simp [BitVec.add_assoc]

/-- Settles O31, register by register: the masks of each read are those of its write. -/
theorem readAfterWriteGivesKeptBits : Obligations.ReadAfterWriteGivesKeptBits := by
  intro c c' d d' s hc hc' hp
  simp only [List.forall_mem_cons]
  refine ⟨?sctlr, ?actlr, ?dfsr, ?ifsr, ?adfsr, ?aifsr, ?dfar, ?ifar, List.forall_mem_nil _⟩
  case sctlr => exact exec_write_then_read .sctlr d d' hc hc' hp (readSctlr_writeSctlr _ _ _ _)
  case actlr => exact exec_write_then_read .actlr d d' hc hc' hp (readStored_and_mask actlrWMask_eq actlrRes_eq _ _)
  case dfsr => exact exec_write_then_read .dfsr d d' hc hc' hp (readStored_and_mask dfsrWMask_eq dfsrRes_eq _ _)
  case ifsr => exact exec_write_then_read .ifsr d d' hc hc' hp (readStored_and_mask ifsrWMask_eq ifsrRes_eq _ _)
  case adfsr => exact exec_write_then_read .adfsr d d' hc hc' hp (readStored_and_mask auxWMask_eq auxRes_eq _ _)
  case aifsr => exact exec_write_then_read .aifsr d d' hc hc' hp (readStored_and_mask (aifsrWMask_eq _) auxRes_eq _ _)
  case dfar => exact exec_write_then_read .dfar d d' hc hc' hp rfl
  case ifar => exact exec_write_then_read .ifar d d' hc hc' hp rfl

/-! ### A transfer done twice over -/

/-- A guarded transfer done twice over is done once, but for the pc, if its act keeps the flags and the mode and done again
changes nothing. -/
theorem guarded_twice {c : Cond} {d : RegNum} {k : Fin 15} {act : Fin 15 → State → State} {s : State}
    (hd : gprIndex d = some k) (hp : s.privileged = true) (hflags : (act k s).flags = s.flags)
    (hmode : (act k s).privileged = s.privileged) (hact : act k (advance (act k s)) = advance (act k s)) :
    ∃ t, guarded c d act s = .next t ∧ guarded c d act t = .next (advance t) := by
  cases hc : condPassed c s.flags with
  | false => exact ⟨_, guarded_skips hd hc, guarded_skips hd hc⟩
  | true =>
    refine ⟨_, guarded_acts hd hc hp, ?_⟩
    rw [guarded_acts hd (by simpa [hflags] using hc) (by simpa [hmode] using hp), hact]

/-- Writing a general register what it holds changes nothing. -/
theorem writeGpr_advance_writeGpr (k : Fin 15) (v : Word) (s : State) :
    writeGpr k v (advance (writeGpr k v s)) = advance (writeGpr k v s) := by
  simp [writeGpr, advance]

/-- Writing a CP15 register the same value again changes nothing (R58). -/
theorem writeCp15_advance_writeCp15 (r : Cp15Reg) (v : Word) (s : State) :
    writeCp15 r v (advance (writeCp15 r v s)) = advance (writeCp15 r v s) := by
  cases r with
  | sctlr => simp [writeCp15, advance, writeSctlr_idem]
  | _ => rfl

/-- Settles O32: a read gives the same value again, and a write function applied again to its own result keeps it. -/
theorem repeatedTransferChangesNothing : Obligations.RepeatedTransferChangesNothing := by
  intro i s hwf hp
  obtain ⟨k, hk⟩ := exists_gprNum hwf
  have hd : gprIndex i.rd = some k := by rw [hk, gprIndex_gprNum]
  simp only [exec_eq]
  cases i.op with
  | mrc =>
    refine guarded_twice hd hp rfl rfl ?_
    have hread : readCp15 i.reg (advance (writeGpr k (readCp15 i.reg s) s)) = readCp15 i.reg s :=
      readCp15_congr (by cases i.reg <;> rfl)
    rw [hread, writeGpr_advance_writeGpr]
  | mcr =>
    refine guarded_twice hd hp (writeCp15_flags _ _ _) (writeCp15_privileged _ _ _) ?_
    have hread : readGpr (advance (writeCp15 i.reg (readGpr s k) s)) k = readGpr s k := by simp [readGpr]
    rw [hread, writeCp15_advance_writeCp15]

/-! ### The instruction at `pc` -/

/-- R78: the word of an admitted instruction decodes to it. -/
theorem decodeWord_encode {i : Instr} (h : i.wf = true) : decodeWord (encode i) = .ok i := by
  rw [encode, decodeWord, isRegisterTransfer_wordOfTransfer, if_pos rfl, transferOfWord_wordOfTransfer]
  have hrd : RegNum.admitted i.rd = true := h
  simp [decodeTransfer, transferOf, hrd]

/-- Four bytes that lie in memory are read in the order of their addresses. -/
theorem readBytes_four {m : Memory} {a : Word} {b0 b1 b2 b3 : Byte} (h0 : m.read a.toNat = some b0)
    (h1 : m.read (a + 1#32).toNat = some b1) (h2 : m.read (a + 2#32).toNat = some b2)
    (h3 : m.read (a + 3#32).toNat = some b3) : readBytes m a 4 = .ok [b0, b1, b2, b3] := by
  have e2 : a + 1#32 + 1#32 = a + 2#32 := BitVec.add_assoc _ _ _
  have e3 : a + 2#32 + 1#32 = a + 3#32 := BitVec.add_assoc _ _ _
  simp only [readBytes, e2, e3, h0, h1, h2, h3]

/-- The fetch of an admitted instruction whose word lies at `pc` in the byte order of R56. -/
theorem fetch_of_encodeBytes {s : State} {i : Instr} (hwf : i.wf = true)
    (hb : readBytes s.mem s.pc 4 = .ok (encodeBytes i)) : fetch s = .next i := by
  refine fetch_of_bytes (rest := []) hb ?_
  rw [← List.append_nil (encodeBytes i), encodeBytes, decodeBytes_bytesOfWord, decodeWord_encode hwf]

/-- Settles O37: the four bytes are the instruction's own, and at rest no event is due and the boundary changes nothing. -/
theorem bigEndianWordAtPcRuns : Obligations.BigEndianWordAtPcRuns := by
  intro s i hwf hr henv h0 h1 h2 h3
  have hfetch : fetch s = .next i := fetch_of_encodeBytes hwf (readBytes_four h0 h1 h2 h3)
  have hpass : passBoundary s = s := by simp [passBoundary, henv]
  rw [step_of_quiet hr ((dueEvent_eq_none_iff s).mpr (.inl henv)), hfetch, hpass]

end Sys2Proof.Machine
end

section
/-! Proofs of the statements of family 30_encoding.md: the seven steps of the decoder (R72 to R74), decoder and encoder as
inverses (R78), the number of admitted words (R79), the condition table (R69), and the refusals of a program (R11, R75,
R77). -/

namespace Sys2Proof.Machine

/-! ### The seven steps of the decoder -/

/-- Step 1 of R72: the format of `MRC` and `MCR`, by its two fields. -/
theorem isRegisterTransfer_iff (w : Word) :
    isRegisterTransfer w = true ↔ w.extractLsb' 24 4 = 0b1110#4 ∧ w.getLsbD 4 = true := by simp [isRegisterTransfer]

/-- A word of the format decodes as its tuple does. -/
theorem decodeWord_of_format {w : Word} (hw : w.extractLsb' 24 4 = 0b1110#4) (h4 : w.getLsbD 4 = true) :
    decodeWord w = decodeTransfer (transferOfWord w) := if_pos ((isRegisterTransfer_iff w).mpr ⟨hw, h4⟩)

/-- A word not of the format is refused at step 1. -/
theorem decodeWord_of_not_format {w : Word} (h : w.extractLsb' 24 4 ≠ 0b1110#4 ∨ w.getLsbD 4 = false) :
    decodeWord w = .error .notInScope := by
  refine if_neg fun hw => ?_
  obtain ⟨hop, h4⟩ := (isRegisterTransfer_iff w).mp hw
  exact h.elim (absurd hop) (by simp only [h4]; decide)

/-- Every code but 1111 is a condition's (R69). -/
theorem exists_condOfBits {b : BitVec 4} (h : b ≠ 15#4) : ∃ c, condOfBits b = some c :=
  Option.ne_none_iff_exists'.mp (mt (condOfBits_eq_none_iff b).mp h)

/-- Fifteen is the one register number that is not admitted. -/
theorem admitted_iff (d : RegNum) : RegNum.admitted d = true ↔ d ≠ 15#4 := by simp [RegNum.admitted]

section
variable {t : Transfer}

/-- Step 2 of R72. -/
theorem decodeTransfer_no_condition (hc : t.cond = 15#4) : decodeTransfer t = .error .notInScope := by
  simp [decodeTransfer, (condOfBits_eq_none_iff _).mpr hc]

/-- Step 3 of R72. -/
theorem decodeTransfer_other_coprocessor (hc : t.cond ≠ 15#4) (hp : t.cpNum ≠ 15#4) :
    decodeTransfer t = .error .otherCoprocessor := by
  obtain ⟨c, hc⟩ := exists_condOfBits hc
  simp [decodeTransfer, hc, hp]

/-- Step 4 of R72. -/
theorem decodeTransfer_rd_pc (hc : t.cond ≠ 15#4) (hp : t.cpNum = 15#4) (hd : t.rd = 15#4) :
    decodeTransfer t = .error .rdIsPc := by
  obtain ⟨c, hc⟩ := exists_condOfBits hc
  simp [decodeTransfer, hc, hp, hd, RegNum.admitted]

/-- Step 5 of R72: a described register's tuple decodes. -/
theorem decodeTransfer_described (hc : t.cond ≠ 15#4) (hp : t.cpNum = 15#4) (hd : t.rd ≠ 15#4) {r : Cp15Reg}
    (hr : t.sel = selectorOf r) : ∃ i, decodeTransfer t = .ok i := by
  obtain ⟨c, hc⟩ := exists_condOfBits hc
  simp [decodeTransfer, hc, hp, (admitted_iff _).mpr hd, hr]

/-- Steps 6 and 7 of R72: any other tuple is refused by its `CRn`. -/
theorem decodeTransfer_undescribed (hc : t.cond ≠ 15#4) (hp : t.cpNum = 15#4) (hd : t.rd ≠ 15#4)
    (hr : ∀ r, t.sel ≠ selectorOf r) :
    decodeTransfer t =
      .error (if crnMentioned t.sel.crn then .undescribedRegister else .unknownCp15Encoding) := by
  obtain ⟨c, hc⟩ := exists_condOfBits hc
  have hsel : regOfSelector t.sel = none :=
    Option.eq_none_iff_forall_ne_some.mpr fun r h => hr r (selectorOf_of_regOfSelector h).symm
  simp only [decodeTransfer, hc, hp, (admitted_iff _).mpr hd, hsel]
  cases crnMentioned t.sel.crn <;> rfl

end

/-- The rows of R13's table are the selectors of the registers. -/
theorem row_mem_describedRegisters_iff (r : Cp15Reg) (w : Word) :
    (r, tupleOf w) ∈ describedRegisters ↔ (transferOfWord w).sel = selectorOf r := by
  cases r <;> simp [describedRegisters, tupleOf, selectorOf, transferOfWord, ← BitVec.toNat_inj]

/-- A tuple stands in R13's table if it selects a register. -/
theorem tupleOf_mem_described_iff (w : Word) :
    tupleOf w ∈ describedRegisters.map Prod.snd ↔ ∃ r, (transferOfWord w).sel = selectorOf r := by
  simp only [List.mem_map, Prod.exists, exists_eq_right, row_mem_describedRegisters_iff]

/-- The values of `CRn` of step 6 of R72, as numbers. -/
theorem crnMentioned_iff (n : BitVec 4) : crnMentioned n = true ↔ n.toNat ∈ [0, 1, 6, 7, 9, 11, 13, 15] := by
  revert n; decide

/-- Bit 20 set is `MRC` (R68). -/
theorem opOfBit_eq_mrc_iff (b : Bool) : opOfBit b = .mrc ↔ b = true := by cases b <;> decide

/-- Settles O3: each word falls under one of the seven steps, and the decoder has a lemma for each. -/
theorem decoderFollowsSevenSteps : Obligations.DecoderFollowsSevenSteps := by
  intro w
  split_ifs with h1 h2 h3 h4 h5 h6
  · exact decodeWord_of_not_format h1
  all_goals
    obtain ⟨hw, hb⟩ : w.extractLsb' 24 4 = 0b1110#4 ∧ w.getLsbD 4 = true := by simpa using h1
    rw [decodeWord_of_format hw hb]
  · exact decodeTransfer_no_condition h2
  · exact decodeTransfer_other_coprocessor h2 h3
  · exact decodeTransfer_rd_pc h2 (not_not.mp h3) h4
  · obtain ⟨r, hr⟩ := (tupleOf_mem_described_iff w).mp h5
    obtain ⟨i, hi⟩ := decodeTransfer_described (t := transferOfWord w) h2 (not_not.mp h3) h4 hr
    obtain ⟨-, hfields, -⟩ := decodeWord_ok ((decodeWord_of_format hw hb).trans hi)
    refine ⟨i, hi, ?_, ?_, congrArg Transfer.cond hfields, congrArg Transfer.rd hfields⟩
    · exact (row_mem_describedRegisters_iff _ _).mpr (congrArg Transfer.sel hfields).symm
    · rw [show i.op = opOfBit (w.getLsbD 20) from congrArg Transfer.op hfields, opOfBit_eq_mrc_iff]
  all_goals
    have hr : ∀ r, (transferOfWord w).sel ≠ selectorOf r := not_exists.mp (mt (tupleOf_mem_described_iff w).mpr h5)
    rw [decodeTransfer_undescribed (t := transferOfWord w) h2 (not_not.mp h3) h4 hr]
  · exact congrArg _ (if_pos ((crnMentioned_iff _).mpr h6))
  · exact congrArg _ (if_neg (mt (crnMentioned_iff _).mp h6))

/-- Settles O8: steps 1 and 2 of R72 are passed and step 3 refuses. -/
theorem otherCoprocessorIsRefused : Obligations.OtherCoprocessorIsRefused := by
  intro w hw h4 hc hp
  rw [decodeWord_of_format hw h4]
  exact decodeTransfer_other_coprocessor hc hp

/-! ### Decoder and encoder -/

/-- Settles O1: the fields of the word are the instruction's tuple, and the bytes put together again are the word. -/
theorem decodeOfEncodeIsInstruction : Obligations.DecodeOfEncodeIsInstruction := by
  intro i hwf
  refine ⟨decodeWord_encode hwf, fun rest => ?_⟩
  rw [encodeBytes, decodeBytes_bytesOfWord, decodeWord_encode hwf]

/-- Settles O2: the instruction's tuple is that of the word's fields, and the word is the word of its fields. -/
theorem encodeOfDecodeIsWord : Obligations.EncodeOfDecodeIsWord := by
  intro w i h
  obtain ⟨hw, hfields, hwf⟩ := decodeWord_ok h
  refine ⟨hwf, ?_⟩
  rw [encode, hfields, wordOfTransfer_transferOfWord w hw]

/-! ### `Rd` = 15 -/

/-- A transfer of no register of the file is refused, whatever it would do (R74). -/
theorem guarded_rd_pc {d : RegNum} (hd : d = 15#4) (c : Cond) (act : Fin 15 → State → State) (s : State) :
    guarded c d act s = .refused (.decode .rdIsPc) := by simp [guarded, (gprIndex_eq_none_iff d).mpr hd]

/-- Settles O7: both transfers ask for the register before all else, and 13 and 14 are admitted. -/
theorem rdFifteenIsRefused : Obligations.RdFifteenIsRefused := by
  refine ⟨fun i s hd => ?_, fun w hw h4 hc hp hd => ?_, fun i hd => ?_⟩
  · rw [exec_eq]
    cases i.op with
    | mrc => exact guarded_rd_pc hd _ _ _
    | mcr => exact guarded_rd_pc hd _ _ _
  · rw [decodeWord_of_format hw h4]
    exact decodeTransfer_rd_pc hc hp hd
  · refine decodeWord_encode ((admitted_iff _).mpr ?_)
    rcases hd with hd | hd <;> rw [hd] <;> decide

/-! ### The admitted words -/

/-- The conditions in the order of their codes (R69). -/
def conds : List Cond := [.eq, .ne, .cs, .cc, .mi, .pl, .vs, .vc, .hi, .ls, .ge, .lt, .gt, .le, .al]

/-- The choices that make an admitted instruction (R79): direction, register, condition, and `Rd` from R0 to R14. -/
def admittedParts : List (Op × Cp15Reg × Cond × Fin 15) :=
  [.mrc, .mcr] ×ˢ cp15Regs ×ˢ conds ×ˢ List.finRange 15

/-- The instruction of such a choice. -/
def instrOfParts (p : Op × Cp15Reg × Cond × Fin 15) : Instr := .ofParts p.1 p.2.1 p.2.2.1 (gprNum p.2.2.2)

/-- The words that decode (R79). -/
def admittedWords : List Word := (admittedParts.map instrOfParts).map encode

theorem mem_admittedParts (p : Op × Cp15Reg × Cond × Fin 15) : p ∈ admittedParts := by
  obtain ⟨o, r, c, d⟩ := p
  have ho : o ∈ [Op.mrc, .mcr] := by cases o <;> decide
  have hr : r ∈ cp15Regs := by cases r <;> decide
  have hc : c ∈ conds := by cases c <;> decide
  simp only [admittedParts, List.mem_product, ho, hr, hc, List.mem_finRange, and_self]

theorem nodup_admittedParts : admittedParts.Nodup :=
  .product (by decide) (.product (by decide) (.product (by decide) (List.nodup_finRange 15)))

theorem length_admittedParts : admittedParts.length = 3600 := by
  simp only [admittedParts, List.length_product, List.length_finRange]; rfl

theorem gprNum_admitted (d : Fin 15) : RegNum.admitted (gprNum d) = true := by revert d; decide

theorem gprNum_injective : Function.Injective gprNum := fun d d' h =>
  Option.some.inj (by rw [← gprIndex_gprNum d, h, gprIndex_gprNum])

/-- The choices are read back from the instruction. -/
theorem instrOfParts_injective : Function.Injective instrOfParts := by
  rintro ⟨o, r, c, d⟩ ⟨o', r', c', d'⟩ h
  have hop := congrArg Instr.op h
  have hreg := congrArg Instr.reg h
  have hcond := congrArg Instr.cond h
  have hrd := congrArg Instr.rd h
  simp only [instrOfParts, ofParts_op, ofParts_reg, ofParts_cond, ofParts_rd] at hop hreg hcond hrd
  rw [hop, hreg, hcond, gprNum_injective hrd]

theorem instrOfParts_wf (p : Op × Cp15Reg × Cond × Fin 15) : (instrOfParts p).wf = true := by
  rw [instrOfParts, Instr.wf, ofParts_rd]
  exact gprNum_admitted _

/-- The choices make exactly the admitted instructions. -/
theorem mem_map_instrOfParts_iff (i : Instr) : i ∈ admittedParts.map instrOfParts ↔ i.wf = true := by
  refine ⟨fun h => ?_, fun hwf => ?_⟩
  · obtain ⟨p, -, rfl⟩ := List.mem_map.mp h
    exact instrOfParts_wf p
  · obtain ⟨d, hd⟩ := exists_gprNum hwf
    refine List.mem_map.mpr ⟨(i.op, i.reg, i.cond, d), mem_admittedParts _, ?_⟩
    rw [instrOfParts, ← hd, ofParts_parts]

/-- Two admitted instructions with one word are one instruction, the one it decodes to. -/
theorem encode_injOn_wf {i j : Instr} (hi : i.wf = true) (hj : j.wf = true) (h : encode i = encode j) : i = j :=
  Except.ok.inj (by rw [← decodeWord_encode hi, h, decodeWord_encode hj])

theorem nodup_admittedWords : admittedWords.Nodup :=
  (nodup_admittedParts.map instrOfParts_injective).map_on fun i hi j hj =>
    encode_injOn_wf ((mem_map_instrOfParts_iff i).mp hi) ((mem_map_instrOfParts_iff j).mp hj)

theorem mem_admittedWords_iff (w : Word) : w ∈ admittedWords ↔ ∃ i, decodeWord w = .ok i := by
  simp only [admittedWords, List.mem_map (f := encode), mem_map_instrOfParts_iff]
  constructor
  · rintro ⟨i, hwf, rfl⟩
    exact ⟨i, decodeWord_encode hwf⟩
  · rintro ⟨i, hi⟩
    exact ⟨i, encodeOfDecodeIsWord w i hi⟩

/-- A word decodes or is refused by one of the names of R72. -/
theorem decodeWord_ok_or_refused (w : Word) :
    (∃ i, decodeWord w = .ok i) ∨
      ∃ e ∈ [DecodeRefusal.notInScope, .otherCoprocessor, .rdIsPc, .undescribedRegister, .unknownCp15Encoding],
        decodeWord w = .error e := by
  have h := decoderFollowsSevenSteps w
  split_ifs at h
  any_goals exact .inr ⟨_, by decide, h⟩
  obtain ⟨i, hi, -⟩ := h
  exact .inl ⟨i, hi⟩

/-- Settles O4: the admitted instructions are 2 * 8 * 15 * 15, no two of them have one word, and every other
word is refused by the seven steps of R72. -/
theorem admittedWordsAre3600 : Obligations.AdmittedWordsAre3600 := by
  refine ⟨admittedWords, nodup_admittedWords, ?_, mem_admittedWords_iff, fun w hw => ?_⟩
  · rw [admittedWords, List.length_map, List.length_map, length_admittedParts]
  · exact (decodeWord_ok_or_refused w).resolve_left (mt (mem_admittedWords_iff w).mpr hw)

/-! ### Written words and the condition table -/

/-- Settles O5 by running the decoder. -/
theorem writtenWordsDecode : Obligations.WrittenWordsDecode := ⟨rfl, rfl, rfl, rfl, rfl⟩

/-- Settles O6: the codes row by row, and each condition's test of the flags read as the third column of R69. -/
theorem conditionsPassAsTabled : Obligations.ConditionsPassAsTabled := by
  refine ⟨by decide, by decide, fun f => ?_⟩
  simp [condPassed]

/-! ### Programs that do not run -/

/-- A step is refused as its boundary is. -/
theorem step_of_boundary_refused {s : State} {r : Refusal} (h : boundary s = .refused r) : step s = .refused r := by
  simp only [step, h]

/-- Settles O39: the checks of the boundary, in their order. -/
theorem badProgramsAreRefused : Obligations.BadProgramsAreRefused := by
  intro s htrap
  split_ifs with hthumb halign
  · exact step_of_boundary_refused (by simp [boundary, htrap, hthumb])
  · exact step_of_boundary_refused (by simp [boundary, htrap, hthumb, misaligned, halign])
  · intro hwrap
    exact step_of_boundary_refused (by simp [boundary, htrap, hthumb, misaligned, halign, programEnd, hwrap])

end Sys2Proof.Machine
end

section
/-! Proofs of the statements of family 40_mrc_mcr.md: what each of the sixteen instructions does (R80 to R97) and leaves
unchanged, a failed condition (R100), User mode (R101), and the places refused at decode (R98, R99). -/

namespace Sys2Proof.Machine

/-! ### An admitted instruction: skipped, trapped, or completed -/

/-- An instruction is a guarded transfer of its own condition and `Rd`. -/
theorem exec_eq_guarded (i : Instr) : ∃ act, ∀ s, exec i s = guarded i.cond i.rd act s := by
  simp only [exec_eq]
  cases i.op with
  | mrc => exact ⟨_, fun _ => rfl⟩
  | mcr => exact ⟨_, fun _ => rfl⟩

/-- The `Rd` of an admitted instruction has a place in the register file (R10, R74). -/
theorem exists_gprIndex_of_wf {i : Instr} (h : i.wf = true) : ∃ k, gprIndex i.rd = some k := by
  obtain ⟨k, hk⟩ := exists_gprNum h
  exact ⟨k, hk ▸ gprIndex_gprNum k⟩

/-- Settles O27: a guarded transfer tests its condition before the mode and before its act. -/
theorem failedConditionOnlyAdvances : Obligations.FailedConditionOnlyAdvances := by
  intro i s hwf hc
  obtain ⟨k, hk⟩ := exists_gprIndex_of_wf hwf
  obtain ⟨act, hact⟩ := exec_eq_guarded i
  rw [hact]
  exact guarded_skips hk hc

/-- Settles O28: a guarded transfer tests the mode before its act. -/
theorem userModeAccessIsUndefined : Obligations.UserModeAccessIsUndefined := by
  intro i s hwf hc hp
  obtain ⟨k, hk⟩ := exists_gprIndex_of_wf hwf
  obtain ⟨act, hact⟩ := exec_eq_guarded i
  rw [hact]
  exact guarded_traps hk hc hp

/-- In a privileged mode an admitted instruction completes, skipped or not: the mode and the trap record stay. -/
theorem exec_privileged_completes {i : Instr} {s : State} (hwf : i.wf = true) (hp : s.privileged = true) :
    ∃ t, exec i s = .next t ∧ t.trap = s.trap ∧ t.pc = s.pc + 4#32 ∧ t.privileged = true := by
  obtain ⟨t, ht, -⟩ := repeatedTransferChangesNothing i s hwf hp
  refine ⟨t, ht, ?_⟩
  rcases exec_cases ht with ⟨-, rfl⟩ | ⟨-, huser, -⟩ | ⟨k, -, -, -, ⟨-, rfl⟩ | ⟨-, rfl⟩⟩
  · simp [hp]
  · simp [hp] at huser
  · simp [hp]
  · simp [hp]

/-! ### The step at a word -/

/-- A step with no event due, at bytes that decode, is the instruction after the boundary. -/
theorem step_eq_exec {s : State} {bytes rest : List Byte} {i : Instr} (hr : Running s) (hq : Quiet s)
    (hb : readBytes s.mem s.pc 4 = .ok bytes) (hd : decodeBytes bytes = .ok (i, rest)) :
    step s = exec i (passBoundary s) := by
  rw [step_of_quiet hr ((dueEvent_eq_none_iff s).mpr hq), fetch_of_bytes hb hd]

/-- Settles O36: passing the boundary touches the schedule alone. -/
theorem stepRunsDecodedInstruction : Obligations.StepRunsDecodedInstruction := by
  intro s bytes i hr hq hb hd
  rw [step_eq_exec hr hq hb hd, passBoundary_eq]

/-- Settles O41: the step is an admitted instruction on a privileged state with no trap. -/
theorem privilegedStepCompletes : Obligations.PrivilegedStepCompletes := by
  intro s bytes i hr hq hp hb hd
  obtain ⟨t, ht, htrap, hpc, hmode⟩ :=
    exec_privileged_completes (s := passBoundary s) (decodeBytes_wf hd) (by simpa using hp)
  exact ⟨t, (step_eq_exec hr hq hb hd).trans ht, by simpa [hr.noTrap] using htrap, by simpa using hpc, hmode⟩

/-- A step at a word the decoder refuses is refused for the decoder's reason; neither flags nor mode are asked for. -/
theorem step_of_refused_word {s : State} {w : Word} {e : DecodeRefusal} (hr : Running s) (hq : Quiet s)
    (hb : readBytes s.mem s.pc 4 = .ok (bytesOfWord true w)) (hd : decodeWord w = .error e) :
    step s = .refused (.decode e) := by
  have hbytes : decodeBytes (bytesOfWord true w) = .error e := by
    have h := decodeBytes_bytesOfWord w []
    rwa [hd, List.append_nil] at h
  have hfetch : fetch s = .refused (.decode e) := by simp only [fetch, hb, hbytes]
  rw [step_of_quiet hr ((dueEvent_eq_none_iff s).mpr hq), hfetch]

/-- Steps 6 and 7 of R72 on a word: a tuple that is none of the eight is refused by its `CRn`. -/
theorem decodeWord_undescribed {w : Word} (hw : w.extractLsb' 24 4 = 0b1110#4) (h4 : w.getLsbD 4 = true)
    (hc : w.extractLsb' 28 4 ≠ 15#4) (hp : w.extractLsb' 8 4 = 15#4) (hd : w.extractLsb' 12 4 ≠ 15#4)
    (ht : tupleOf w ∉ describedRegisters.map Prod.snd) :
    decodeWord w =
      .error (if crnMentioned (w.extractLsb' 16 4) then .undescribedRegister else .unknownCp15Encoding) := by
  rw [decodeWord_of_format hw h4]
  exact decodeTransfer_undescribed hc hp hd (not_exists.mp (mt (tupleOf_mem_described_iff w).mpr ht))

/-- The values of `CRn` that step 6 of R72 does not list. -/
theorem crnMentioned_eq_false {n : BitVec 4} (h : n.toNat ∈ [2, 3, 4, 5, 8, 10, 12, 14]) : crnMentioned n = false := by
  revert n; decide

/-- Settles O9: the decoder refuses the word at its step 7. -/
theorem unknownPlaceIsRefusedAtDecode : Obligations.UnknownPlaceIsRefusedAtDecode := by
  intro s w hr hq hb hw h4 hc hp hd ht hcrn
  have hdecode := decodeWord_undescribed hw h4 hc hp hd ht
  rw [crnMentioned_eq_false hcrn] at hdecode
  exact step_of_refused_word hr hq hb hdecode

/-- Settles O10: the decoder refuses the word at its step 6. -/
theorem undescribedPlaceIsRefusedAtDecode : Obligations.UndescribedPlaceIsRefusedAtDecode := by
  intro s w hr hq hb hw h4 hc hp hd ht hcrn
  have hdecode := decodeWord_undescribed hw h4 hc hp hd ht
  rw [(crnMentioned_iff _).mpr hcrn] at hdecode
  exact step_of_refused_word hr hq hb hdecode

/-! ### What an instruction leaves unchanged -/

@[simp] theorem storedWord_advance (r : Cp15Reg) (s : State) : storedWord r (advance s) = storedWord r s := by
  cases r <;> rfl
@[simp] theorem storedWord_raise (r : Cp15Reg) (k : TrapKind) (s : State) :
    storedWord r (raise k s) = storedWord r s := by cases r <;> rfl
@[simp] theorem storedWord_writeGpr (r : Cp15Reg) (i : Fin 15) (v : Word) (s : State) :
    storedWord r (writeGpr i v s) = storedWord r s := by cases r <;> rfl
@[simp] theorem storedWord_passBoundary (r : Cp15Reg) (s : State) :
    storedWord r (passBoundary s) = storedWord r s := by
  rw [passBoundary_eq]
  cases r <;> rfl

/-- Two states hold the same CP15 words if each register's stored word is the same. -/
theorem sameCp15_of_storedWord {s t : State} (h : ∀ r, storedWord r t = storedWord r s) : SameCp15 s t :=
  ⟨(h .sctlr).symm, (h .actlr).symm, (h .dfsr).symm, (h .ifsr).symm, (h .adfsr).symm, (h .aifsr).symm,
    (h .dfar).symm, (h .ifar).symm⟩

/-- A place of the register file is that of one register number. -/
theorem eq_gprNum_of_gprIndex {d : RegNum} {k : Fin 15} (h : gprIndex d = some k) : d = gprNum k := by
  revert d k; decide

/-- No instruction changes the flags, the mode, the program, memory, the environment or the draws (R102, R63). -/
theorem exec_sameSurroundings {i : Instr} {s t : State} (h : exec i s = .next t) : SameSurroundings s t := by
  rcases exec_cases h with ⟨-, rfl⟩ | ⟨-, -, rfl⟩ | ⟨k, -, -, -, ⟨-, rfl⟩ | ⟨-, rfl⟩⟩ <;> simp [SameSurroundings]

/-- An instruction leaves the trap record, or is the User-mode exception (R101). -/
theorem exec_trap_cases {i : Instr} {s t : State} (h : exec i s = .next t) :
    t.trap = s.trap ∨
      (s.privileged = false ∧ condPassed i.cond s.flags = true ∧ t = raise .undefinedInstruction s) := by
  rcases exec_cases h with ⟨-, rfl⟩ | ⟨hc, hp, rfl⟩ | ⟨k, -, -, -, ⟨-, rfl⟩ | ⟨-, rfl⟩⟩
  · exact .inl rfl
  · exact .inr ⟨hp, hc, rfl⟩
  · exact .inl rfl
  · exact .inl (writeCp15_trap _ _ _)

/-- An instruction changes no general register but the `Rd` of an `MRC`. -/
theorem exec_regs_frame {i : Instr} {s t : State} (h : exec i s = .next t) {k : Fin 15}
    (hk : i.op = .mrc → gprNum k ≠ i.rd) : t.regs[k] = s.regs[k] := by
  rcases exec_cases h with ⟨-, rfl⟩ | ⟨-, -, rfl⟩ | ⟨j, hj, -, -, ⟨ho, rfl⟩ | ⟨-, rfl⟩⟩
  · rfl
  · rfl
  · have hne : j.val ≠ k.val := fun e => hk ho (by rw [eq_gprNum_of_gprIndex hj, Fin.ext e])
    exact Vector.getElem_set_ne j.isLt k.isLt hne
  · simp

/-- An instruction changes no CP15 word but that an `MCR` names (R58). -/
theorem exec_storedWord_frame {i : Instr} {s t : State} (h : exec i s = .next t) {r : Cp15Reg}
    (hr : i.op = .mcr → r ≠ i.reg) : storedWord r t = storedWord r s := by
  rcases exec_cases h with ⟨-, rfl⟩ | ⟨-, -, rfl⟩ | ⟨k, -, -, -, ⟨-, rfl⟩ | ⟨ho, rfl⟩⟩
  · simp
  · simp
  · simp
  · rw [storedWord_advance, storedWord_writeCp15_other (hr ho)]

/-- Settles O29 from the four frames of an instruction. -/
theorem mrcFrame : Obligations.MrcFrame := by
  intro i s t ho h
  refine ⟨fun k hk => exec_regs_frame h fun _ => hk,
    sameCp15_of_storedWord fun r => exec_storedWord_frame h fun hmcr => ?_, exec_sameSurroundings h, ?_⟩
  · exact absurd (ho.symm.trans hmcr) (by decide)
  · exact (exec_trap_cases h).imp_right fun ⟨hp, hc, ht⟩ => ⟨hp, hc, ht ▸ raise_regs _ _⟩

/-- Settles O30 from the four frames of an instruction; what a register reads as follows its stored word. -/
theorem mcrFrame : Obligations.McrFrame := by
  intro i s t ho h
  refine ⟨Vector.ext fun k hk => ?_, fun r hr => ?_, exec_sameSurroundings h, ?_⟩
  · exact exec_regs_frame (k := ⟨k, hk⟩) h fun hmrc => absurd (ho.symm.trans hmrc) (by decide)
  · have hkept : storedWord r t = storedWord r s := exec_storedWord_frame h fun _ => hr
    exact ⟨hkept, readCp15_congr hkept⟩
  · refine (exec_trap_cases h).imp_right fun ⟨hp, hc, ht⟩ => ⟨hp, hc, sameCp15_of_storedWord fun r => ?_⟩
    rw [ht, storedWord_raise]

/-! ### User mode -/

/-- A step with no event due that answers a next state ran the instruction at `pc`. -/
theorem step_quiet_cases {s t : State} (hq : Quiet s) (h : step s = .next t) :
    ∃ i, Running s ∧ fetch s = .next i ∧ exec i (passBoundary s) = .next t := by
  rcases step_cases h with ⟨e, -, he, -⟩ | ⟨i, hr, -, hf, hx⟩
  · rw [(dueEvent_eq_none_iff s).mpr hq] at he
    cases he
  · exact ⟨i, hr, hf, hx⟩

/-- In User mode an instruction that answers a next state was skipped or raised UndefinedInstruction (R100, R101). -/
theorem exec_user_cases {i : Instr} {s t : State} (hp : s.privileged = false) (h : exec i s = .next t) :
    t = advance s ∨ t = raise .undefinedInstruction s := by
  rcases exec_cases h with ⟨-, ht⟩ | ⟨-, -, ht⟩ | ⟨k, -, -, hpriv, -⟩
  · exact .inl ht
  · exact .inr ht
  · simp [hp] at hpriv

/-- Settles O54: of what an instruction can do only the skip and the trap are left in User mode. -/
theorem userModeChangesNothing : Obligations.UserModeChangesNothing := by
  intro s t hp hq h
  obtain ⟨i, hr, -, hx⟩ := step_quiet_cases hq h
  obtain rfl | rfl := exec_user_cases (by simpa using hp) hx
  · exact ⟨by simp, sameCp15_of_storedWord (by simp), .inl ⟨by simp, by simpa using hr.noTrap⟩⟩
  · exact ⟨by simp, sameCp15_of_storedWord (by simp), .inr ⟨by simp, by simp⟩⟩

/-- The checks of the boundary read no CP15 word. -/
theorem boundary_withCp15 (w : Cp15Words) (s : State) : boundary (withCp15 w s) = boundary s := rfl

/-- The fetch reads memory and the pc alone. -/
theorem fetch_withCp15 (w : Cp15Words) (s : State) : fetch (withCp15 w s) = fetch s := rfl

theorem passBoundary_withCp15 (w : Cp15Words) (s : State) :
    passBoundary (withCp15 w s) = withCp15 w (passBoundary s) := by
  simp only [passBoundary_eq]
  rfl

/-- In User mode a guarded transfer never does its act, so it has the same outcome with any CP15 words. -/
theorem guarded_withCp15 {s : State} (hp : s.privileged = false) (w : Cp15Words) (c : Cond) (d : RegNum)
    (act : Fin 15 → State → State) : guarded c d act (withCp15 w s) = mapNext (withCp15 w) (guarded c d act s) := by
  cases hd : gprIndex d with
  | none =>
    have hd15 := (gprIndex_eq_none_iff d).mp hd
    rw [guarded_rd_pc hd15, guarded_rd_pc hd15]
    rfl
  | some k =>
    cases hc : condPassed c s.flags with
    | false => rw [guarded_skips (s := withCp15 w s) hd hc, guarded_skips hd hc]; rfl
    | true => rw [guarded_traps (s := withCp15 w s) hd hc hp, guarded_traps hd hc hp]; rfl

/-- Settles O55: neither the boundary nor the fetch reads a CP15 word, and the instruction makes no transfer. -/
theorem userModeLearnsNothingOfCp15 : Obligations.UserModeLearnsNothingOfCp15 := by
  intro s w hp hq
  unfold step
  rw [boundary_withCp15, fetch_withCp15, passBoundary_withCp15]
  cases hb : boundary s with
  | fault f => rfl
  | refused r => rfl
  | next o =>
    obtain rfl : o = none := (running_of_boundary hb).2.trans ((dueEvent_eq_none_iff s).mpr hq)
    cases fetch s with
    | fault f => rfl
    | refused r => rfl
    | next i =>
      obtain ⟨act, hact⟩ := exec_eq_guarded i
      simp only [hact]
      exact guarded_withCp15 (by simpa using hp) w _ _ act

/-! ### The sixteen instructions -/

/-- An `MRC` does as R80 says, with the value its register reads as. -/
theorem readsInto_of_readCp15 (r : Cp15Reg) {value : State → Word} (hv : ∀ s, readCp15 r s = value s) :
    ReadsInto (.ofParts .mrc r) value := by
  intro c d s
  have hwf : (Instr.ofParts .mrc r c (gprNum d)).wf = true := by
    rw [Instr.wf, ofParts_rd]; exact gprNum_admitted d
  refine ⟨fun hc hp => ?_, fun hc => ?_, fun hc => ?_⟩
  · rw [exec_read_acts (ofParts_op _ _ _ _) (ofParts_rd _ _ _ _) (by simpa using hc) hp, ofParts_reg, hv]
    rfl
  · exact userModeAccessIsUndefined _ s hwf (by simpa using hc)
  · exact failedConditionOnlyAdvances _ s hwf (by simpa using hc)

/-- An `MCR` does as R81 says, with the write function of its register. -/
theorem writesFrom_of_writeCp15 (r : Cp15Reg) {written : Word → State → State}
    (hw : ∀ v s, writeCp15 r v s = written v s) : WritesFrom (.ofParts .mcr r) written := by
  intro c d s
  have hwf : (Instr.ofParts .mcr r c (gprNum d)).wf = true := by
    rw [Instr.wf, ofParts_rd]; exact gprNum_admitted d
  refine ⟨fun hc hp => ?_, fun hc => ?_, fun hc => ?_⟩
  · rw [exec_write_acts (ofParts_op _ _ _ _) (ofParts_rd _ _ _ _) (by simpa using hc) hp, ofParts_reg, advance,
      writeCp15_pc, hw]
    rfl
  · exact userModeAccessIsUndefined _ s hwf (by simpa using hc)
  · exact failedConditionOnlyAdvances _ s hwf (by simpa using hc)

/-- Bits put below others are added. -/
theorem toNat_append_eq_add {m n : Nat} (x : BitVec m) (y : BitVec n) :
    (x ++ y).toNat = x.toNat * 2 ^ n + y.toNat := by
  rw [BitVec.toNat_append, ← Nat.shiftLeft_add_eq_or_of_lt y.isLt, Nat.shiftLeft_eq]

/-- The word of a tuple as a number: each field times the place of its lowest bit (R67, R68). -/
theorem toNat_wordOfTransfer (t : Transfer) :
    (wordOfTransfer t).toNat =
      t.cond.toNat * 2 ^ 28 + 14 * 2 ^ 24 + t.sel.opc1.toNat * 2 ^ 21 + (opBit t.op).toNat * 2 ^ 20 +
        t.sel.crn.toNat * 2 ^ 16 + t.rd.toNat * 2 ^ 12 + t.cpNum.toNat * 2 ^ 8 + t.sel.opc2.toNat * 2 ^ 5 + 2 ^ 4 +
        t.sel.crm.toNat := by
  change (t.cond ++ 0b1110#4 ++ t.sel.opc1 ++ opBit t.op ++ t.sel.crn ++ t.rd ++ t.cpNum ++ t.sel.opc2 ++ 1#1 ++
    t.sel.crm : BitVec (4 + 4 + 3 + 1 + 4 + 4 + 4 + 3 + 1 + 4)).toNat = _
  simp only [toNat_append_eq_add, BitVec.toNat_ofNat]
  omega

/-- The condition and `Rd` add to the word for EQ and R0, whose codes are 0, each at its place. -/
theorem toNat_encode_ofParts (o : Op) (r : Cp15Reg) (c : Cond) (d : Fin 15) :
    (encode (.ofParts o r c (gprNum d))).toNat =
      (condBits c).toNat * 0x10000000 + (encode (.ofParts o r .eq 0#4)).toNat + d.val * 0x1000 := by
  have hrd : (gprNum d).toNat = d.val := by revert d; decide
  have heq : (condBits .eq).toNat = 0 := rfl
  simp only [encode, toNat_wordOfTransfer, transferOf, ofParts_op, ofParts_reg, ofParts_cond, ofParts_rd, hrd, heq,
    BitVec.toNat_ofNat]
  omega

/-- A row's word for any condition and `Rd`, from its word for EQ and R0 (R71). -/
theorem encode_eq_rowWord {o : Op} {r : Cp15Reg} {base : Nat} (hbase : (encode (.ofParts o r .eq 0#4)).toNat = base)
    (c : Cond) (d : Fin 15) : encode (.ofParts o r c (gprNum d)) = rowWord base c d := by
  rw [rowWord, ← hbase, ← toNat_encode_ofParts, BitVec.ofNat_toNat, BitVec.setWidth_eq]

/-- A read function of the common shape, its masks as literals. -/
theorem readStored_eq {m resMask m' resMask' : Word} (hm : m = m') (hres : resMask = resMask') (res w : Word) :
    readStored m resMask res w = (w &&& m') ||| (res &&& resMask') := by
  subst hm hres
  rfl

/-- `read_SCTLR`, its masks as literals (R33). -/
theorem readSctlr_eq (res w : Word) :
    readSctlr res w = (w &&& 0x4B087007#32) ||| 0x80200800#32 ||| (res &&& 0x04D787F8#32) := by
  rw [readSctlr, sctlrStored_eq, sctlrOnes_eq, sctlrRes_eq]

/-- `write_SCTLR`, its masks as literals (R33). -/
theorem writeSctlr_eq (b : Bool) (w v : Word) :
    writeSctlr b w v =
      if b then (w &&& ~~~0x4B087007#32) ||| (v &&& 0x4B087007#32)
      else (w &&& ~~~0x43087007#32) ||| (v &&& 0x43087007#32) := by
  rw [writeSctlr, sctlrWMask_eq]
  cases b <;> rfl

/-- Settles O11: the masks of the read, and the row's word for EQ and R0. -/
theorem mrcSctlrReadsSctlr : Obligations.MrcSctlrReadsSctlr :=
  ⟨readsInto_of_readCp15 .sctlr fun _ => readSctlr_eq _ _, encode_eq_rowWord (o := .mrc) (r := .sctlr) rfl⟩

/-- Settles O12: the masks of the write, and the row's word for EQ and R0. -/
theorem mcrSctlrWritesSctlr : Obligations.McrSctlrWritesSctlr :=
  ⟨writesFrom_of_writeCp15 .sctlr fun _ _ => by rw [writeCp15, writeSctlr_eq],
    encode_eq_rowWord (o := .mcr) (r := .sctlr) rfl⟩

/-- Settles O13: the masks of the read, and the row's word for EQ and R0. -/
theorem mrcActlrReadsActlr : Obligations.MrcActlrReadsActlr :=
  ⟨readsInto_of_readCp15 .actlr fun _ => readStored_eq actlrWMask_eq actlrRes_eq _ _,
    encode_eq_rowWord (o := .mrc) (r := .actlr) rfl⟩

/-- Settles O14: the mask of the write, and the row's word for EQ and R0. -/
theorem mcrActlrWritesActlr : Obligations.McrActlrWritesActlr :=
  ⟨writesFrom_of_writeCp15 .actlr fun _ _ => by rw [writeCp15, writeActlr, actlrWMask_eq],
    encode_eq_rowWord (o := .mcr) (r := .actlr) rfl⟩

/-- Settles O15: the masks of the read, and the row's word for EQ and R0. -/
theorem mrcDfsrReadsDfsr : Obligations.MrcDfsrReadsDfsr :=
  ⟨readsInto_of_readCp15 .dfsr fun _ => readStored_eq dfsrWMask_eq dfsrRes_eq _ _,
    encode_eq_rowWord (o := .mrc) (r := .dfsr) rfl⟩

/-- Settles O16: the mask of the write, and the row's word for EQ and R0. -/
theorem mcrDfsrWritesDfsr : Obligations.McrDfsrWritesDfsr :=
  ⟨writesFrom_of_writeCp15 .dfsr fun _ _ => by rw [writeCp15, writeDfsr, dfsrWMask_eq],
    encode_eq_rowWord (o := .mcr) (r := .dfsr) rfl⟩

/-- Settles O17: the masks of the read, and the row's word for EQ and R0. -/
theorem mrcIfsrReadsIfsr : Obligations.MrcIfsrReadsIfsr :=
  ⟨readsInto_of_readCp15 .ifsr fun _ => readStored_eq ifsrWMask_eq ifsrRes_eq _ _,
    encode_eq_rowWord (o := .mrc) (r := .ifsr) rfl⟩

/-- Settles O18: the mask of the write, and the row's word for EQ and R0. -/
theorem mcrIfsrWritesIfsr : Obligations.McrIfsrWritesIfsr :=
  ⟨writesFrom_of_writeCp15 .ifsr fun _ _ => by rw [writeCp15, writeIfsr, ifsrWMask_eq],
    encode_eq_rowWord (o := .mcr) (r := .ifsr) rfl⟩

/-- Settles O19: the masks of the read, and the row's word for EQ and R0. -/
theorem mrcAdfsrReadsAdfsr : Obligations.MrcAdfsrReadsAdfsr :=
  ⟨readsInto_of_readCp15 .adfsr fun _ => readStored_eq auxWMask_eq auxRes_eq _ _,
    encode_eq_rowWord (o := .mrc) (r := .adfsr) rfl⟩

/-- Settles O20: the mask of the write, and the row's word for EQ and R0. -/
theorem mcrAdfsrWritesAdfsr : Obligations.McrAdfsrWritesAdfsr :=
  ⟨writesFrom_of_writeCp15 .adfsr fun _ _ => by rw [writeCp15, writeAdfsr, auxWMask_eq],
    encode_eq_rowWord (o := .mcr) (r := .adfsr) rfl⟩

/-- Bits neither stored nor reserved read 0. -/
theorem readStored_and_eq_zero {stored resMask k w : Word} (hw : w &&& k = 0#32) (hr : resMask &&& k = 0#32)
    (res : Word) : readStored stored resMask res w &&& k = 0#32 := by
  have hstored : w &&& stored &&& k = 0#32 := by
    rw [BitVec.and_assoc, BitVec.and_comm stored, ← BitVec.and_assoc, hw, BitVec.zero_and]
  rw [readStored, BitVec.and_or_distrib_right, hstored, and_mask_and_eq_zero hr, BitVec.or_zero]

/-- A prefetch abort leaves AIFSR reading Index as 0 (R116). -/
theorem readAifsr_prefetchAbort (f : FaultCode) (p : Option ParitySource) (s : State) :
    readCp15 .aifsr (fireEvent (.prefetchAbort f p) s) &&& 0x00003FE0#32 = 0#32 := by
  obtain ⟨sd, aux, k, -, -, hlatch⟩ := latchInstrFault_spec f p s
  have hstored : (fireEvent (.prefetchAbort f p) s).aifsr = aux &&& auxWMaskNoIndex := by
    simp only [fireEvent, raise_aifsr, hlatch]
  rw [readCp15, hstored]
  exact readStored_and_eq_zero (and_mask_and_eq_zero (by decide) aux) (by decide) _

/-- Settles O21: the masks of the read, the Index a prefetch abort latches, and the row's word for EQ and R0. -/
theorem mrcAifsrReadsAifsr : Obligations.MrcAifsrReadsAifsr :=
  ⟨readsInto_of_readCp15 .aifsr fun _ => readStored_eq (aifsrWMask_eq _) auxRes_eq _ _, readAifsr_prefetchAbort,
    encode_eq_rowWord (o := .mrc) (r := .aifsr) rfl⟩

/-- Settles O22: the mask of the write, and the row's word for EQ and R0. -/
theorem mcrAifsrWritesAifsr : Obligations.McrAifsrWritesAifsr :=
  ⟨writesFrom_of_writeCp15 .aifsr fun _ _ => by rw [writeCp15, writeAifsr, aifsrWMask_eq],
    encode_eq_rowWord (o := .mcr) (r := .aifsr) rfl⟩

/-- An imprecise data abort leaves DFAR (R47, R115). -/
theorem dfar_impreciseDataAbort (f : FaultCode) (rw : BitVec 1) (p : Option DataParity) (s : State) :
    (fireEvent (.impreciseDataAbort f rw p) s).dfar = s.dfar := by
  obtain ⟨sd, aux, k, -, -, hlatch⟩ := latchDataFault_spec f rw p s
  simp only [fireEvent, raise_dfar, hlatch]

/-- Settles O23: the register is read as it is stored, and the row's word for EQ and R0. -/
theorem mrcDfarReadsDfar : Obligations.MrcDfarReadsDfar :=
  ⟨readsInto_of_readCp15 .dfar fun _ => rfl, dfar_impreciseDataAbort, encode_eq_rowWord (o := .mrc) (r := .dfar) rfl⟩

/-- Settles O24: the register is stored as it is written, and the row's word for EQ and R0. -/
theorem mcrDfarWritesDfar : Obligations.McrDfarWritesDfar :=
  ⟨writesFrom_of_writeCp15 .dfar fun _ _ => rfl, encode_eq_rowWord (o := .mcr) (r := .dfar) rfl⟩

/-- Settles O25: the register is read as it is stored, the slide's line is run through the decoder, and the row's word for
EQ and R0. -/
theorem mrcIfarReadsIfar : Obligations.MrcIfarReadsIfar :=
  ⟨readsInto_of_readCp15 .ifar fun _ => rfl, rfl, encode_eq_rowWord (o := .mrc) (r := .ifar) rfl⟩

/-- Settles O26: the register is stored as it is written, and the row's word for EQ and R0. -/
theorem mcrIfarWritesIfar : Obligations.McrIfarWritesIfar :=
  ⟨writesFrom_of_writeCp15 .ifar fun _ _ => rfl, encode_eq_rowWord (o := .mcr) (r := .ifar) rfl⟩

end Sys2Proof.Machine
end

section
/-! Proofs of the statements of family 60_exceptions.md: the end of a run in a trap (R125), what each event of the
environment writes (R114 to R118, R121), what no step changes (R110), and the handler's run (R125). -/

namespace Sys2Proof.Machine

/-! ### A run that has ended -/

/-- Settles O38: the trap record is the first thing the boundary checks. -/
theorem trapEndsTheRun : Obligations.TrapEndsTheRun := by
  intro s t ht
  have hboundary : boundary s = .fault (.trapped t) := by rw [boundary, ht]
  rw [step, hboundary]

/-! ### The environment's events -/

/-- An event that is due fires on the state with its entry of the schedule passed. -/
theorem step_of_eventDue {s : State} {e : EnvEvent} (hr : Running s) (hd : EventDue s e) :
    step s = .next (fireEvent e { s with events := s.events.tail }) := by
  have henv : s.envFaults = true := hd.1
  rw [step_of_event hr ((dueEvent_eq_some_iff s e).mpr hd), passBoundary_eq, henv, if_pos rfl]

/-- Settles O43, from what a data abort latches. -/
theorem preciseDataAbortLatches : Obligations.PreciseDataAbortLatches := by
  intro s a f rw p hr hd
  obtain ⟨sd, aux, k, hsd, haux, hlatch⟩ := latchDataFault_spec f rw p { s with events := s.events.tail }
  refine ⟨sd, aux, k, hsd, haux, ?_⟩
  rw [step_of_eventDue hr hd, fireEvent, hlatch, dfsrWord_eq, auxWMask_eq, raise]

/-- Settles O44, from what a data abort latches. -/
theorem impreciseDataAbortKeepsDfar : Obligations.ImpreciseDataAbortKeepsDfar := by
  intro s f rw p hr hd
  obtain ⟨sd, aux, k, hsd, haux, hlatch⟩ := latchDataFault_spec f rw p { s with events := s.events.tail }
  refine ⟨sd, aux, k, hsd, haux, ?_⟩
  rw [step_of_eventDue hr hd, fireEvent, hlatch, dfsrWord_eq, auxWMask_eq, raise]

/-- Settles O45, from what a prefetch abort latches. -/
theorem prefetchAbortLatches : Obligations.PrefetchAbortLatches := by
  intro s f p hr hd
  obtain ⟨sd, aux, k, hsd, haux, hlatch⟩ := latchInstrFault_spec f p { s with events := s.events.tail }
  refine ⟨sd, aux, k, hsd, haux, ?_⟩
  rw [step_of_eventDue hr hd, fireEvent, hlatch, ifsrWord_eq, auxWMaskNoIndex_eq, raise]

/-- Settles O46: an interrupt latches nothing, it only raises. -/
theorem interruptEndsTheRun : Obligations.InterruptEndsTheRun := by
  intro s hr
  refine ⟨fun hd => ?_, fun hd => ?_⟩
  · rw [step_of_eventDue hr hd, fireEvent, raise]
  · rw [step_of_eventDue hr hd, fireEvent, raise]

/-! ### What a step can trap in and what it keeps -/

/-- An instruction that answers a next state goes on to the next word, with the trap record as it was, or is the User-mode
exception (R80, R81, R100, R101). -/
theorem exec_advances_or_traps {i : Instr} {s t : State} (h : exec i s = .next t) :
    (t.trap = s.trap ∧ t.pc = s.pc + 4#32) ∨ (s.privileged = false ∧ t = raise .undefinedInstruction s) := by
  rcases exec_cases h with ⟨-, rfl⟩ | ⟨-, hp, rfl⟩ | ⟨k, -, -, -, ⟨-, rfl⟩ | ⟨-, rfl⟩⟩
  · exact .inl ⟨rfl, rfl⟩
  · exact .inr ⟨hp, rfl⟩
  · exact .inl ⟨rfl, rfl⟩
  · exact .inl ⟨by simp, by simp⟩

/-- Settles O42: with no event due the step is an instruction on a state with no trap. -/
theorem quietStepTrapsOnlyInUserMode : Obligations.QuietStepTrapsOnlyInUserMode := by
  intro s t hq h
  obtain ⟨i, hr, -, hx⟩ := step_quiet_cases hq h
  obtain ⟨htrap, hpc⟩ | ⟨hp, rfl⟩ := exec_advances_or_traps hx
  · exact .inl ⟨by simpa [hr.noTrap] using htrap, by simpa using hpc⟩
  · exact .inr ⟨by simpa using hp, by simp, by simp⟩

/-- Settles O51, from the frame of an event and the frame of an instruction. -/
theorem stepKeepsModeFlagsAndProgram : Obligations.StepKeepsModeFlagsAndProgram := by
  intro s t h
  rcases step_cases h with ⟨e, -, -, rfl⟩ | ⟨i, -, -, -, hx⟩
  · obtain ⟨_, _, _, _, _, _, _, _, hfire⟩ := fireEvent_frame e (passBoundary s)
    simp [hfire]
  · obtain ⟨hflags, hmode, hthumb, -, hmem, hpc0, hlen, henv, -, -⟩ := exec_sameSurroundings hx
    simp [← hflags, ← hmode, ← hthumb, ← hmem, ← hpc0, ← hlen, ← henv]

/-! ### The handler's run -/

/-- A state in ARM state with no trap, at the first word of an aligned program that does not wrap, can go on. -/
theorem running_at_start {s : State} (htrap : s.trap = none) (harm : s.thumb = false) (hpc : s.pc = s.pc0)
    (halign : s.pc0.extractLsb' 0 2 = 0#2) (hlen : 0 < s.len) (hwrap : s.pc0.toNat + 4 * s.len ≤ 0xFFFFFFFC) :
    Running s where
  noTrap := htrap
  armState := harm
  pcAligned := by rw [hpc, halign]
  startAligned := halign
  noWrap := hwrap
  atWord := by rw [hpc]; omega

/-- Settles O47: the launch replaces the program, the mode and the trap record alone, and a loaded program reads back. -/
theorem handlerRunStartsFromTrapState : Obligations.HandlerRunStartsFromTrapState := by
  intro s t a ws _
  refine ⟨⟨rfl, rfl, rfl, rfl, ?_, rfl, rfl, rfl, loadProgram_wf a ws s⟩, fun hwrap k hk => ?_,
    fun harm hne halign hwrap => ?_⟩
  · exact sameCp15_of_storedWord fun r => by cases r <;> rfl
  · exact readBytes_placeWords ws [] a k hk hwrap
  · exact running_at_start rfl harm rfl halign (List.length_pos_iff.mpr hne) hwrap

end Sys2Proof.Machine
end

section
/-! Proofs of the statements of family 70_reset_and_hazards.md: what a launch fixes (R137), how a run ends or leaves its
program (R137), and the state after reset (R130 to R133). -/

namespace Sys2Proof.Machine

/-! ### The launch of a run -/

/-- What a launch loads and sets beside the CP15 words leaves those words. -/
theorem launch_sameCp15 (l : Launch) : SameCp15 (launchCp15 l State.reset) (launch l) :=
  sameCp15_of_storedWord fun r => by cases r <;> rfl

/-- A launch that gives no CP15 words starts from those it finds. -/
theorem launchCp15_of_none {l : Launch} (h : l.cp15 = none) (s : State) : launchCp15 l s = s := by
  rw [launchCp15, h]

/-- A launch that gives CP15 words starts from those. -/
theorem launchCp15_of_some {l : Launch} {w : Cp15Words} (h : l.cp15 = some w) (s : State) :
    launchCp15 l s = withCp15 w s := by
  rw [launchCp15, h, withCp15]

/-- Settles O48, from the fields of the launch state and the reading back of a loaded program. -/
theorem launchPlacesProgram : Obligations.LaunchPlacesProgram := by
  intro l
  have hsame := launch_sameCp15 l
  refine ⟨⟨rfl, rfl, rfl, loadProgram_wf _ _ _, rfl, rfl, rfl, rfl, launch_trap l, rfl, rfl⟩, fun hnone => ?_,
    fun w hsome => ?_, fun hwrap k hk => ?_, fun harm hne halign hwrap => ?_⟩
  · rwa [launchCp15_of_none hnone] at hsame
  · rw [launchCp15_of_some hsome] at hsame
    obtain ⟨hsctlr, hactlr, hdfsr, hifsr, hadfsr, haifsr, hdfar, hifar⟩ := hsame
    exact ⟨hsctlr.symm, hactlr.symm, hdfsr.symm, hifsr.symm, hadfsr.symm, haifsr.symm, hdfar.symm, hifar.symm⟩
  · exact readBytes_placeWords l.program [] l.pc0 k hk hwrap
  · exact running_at_start (launch_trap l) harm rfl halign (List.length_pos_iff.mpr hne) hwrap

/-! ### The end of the program -/

/-- A step faults as its boundary does. -/
theorem step_of_boundary_fault {s : State} {f : Fault} (h : boundary s = .fault f) : step s = .fault f := by
  simp only [step, h]

/-- What is left for the boundary to check once a state has no trap, is in ARM state, is aligned and does not wrap: where the
pc stands in the program. -/
theorem boundary_of_aligned_fitting {s : State} (htrap : s.trap = none) (harm : s.thumb = false)
    (hpc : s.pc.extractLsb' 0 2 = 0#2) (hpc0 : s.pc0.extractLsb' 0 2 = 0#2) (hfits : programEnd s ≤ 0xFFFFFFFC) :
    boundary s =
      if s.pc.toNat = programEnd s then .fault .endOfRun
      else if s.pc.toNat < s.pc0.toNat ∨ programEnd s < s.pc.toNat then .refused .pcLeftProgram
      else .next (dueEvent s) := by
  simp [boundary, htrap, harm, misaligned, hpc, hpc0, Nat.not_lt.mpr hfits]

/-- Settles O40: with the other checks passed, the boundary looks at the end of the program, then at its bounds. -/
theorem runEndsAtProgramEnd : Obligations.RunEndsAtProgramEnd := by
  intro s htrap harm hpc hpc0 hfits
  have hboundary := boundary_of_aligned_fitting htrap harm hpc hpc0 hfits
  split_ifs with hend
  · exact step_of_boundary_fault (hboundary.trans (if_pos hend))
  · intro hout
    exact step_of_boundary_refused (hboundary.trans ((if_neg hend).trans (if_pos hout)))

/-! ### The state after reset -/

/-- SCTLR after reset: the parameter without bit 13, under the mask of the stored bits (R130). -/
theorem reset_sctlr : State.reset.sctlr = Config.resetSctlrX &&& ~~~0x00002000#32 &&& 0x4B087007#32 := by
  rw [State.reset, sctlrStored_eq, sctlrV_mask_eq]
  ac_rfl

/-- Settles O50: each register is reset through its write mask. -/
theorem resetHasInvariant : Obligations.ResetHasInvariant where
  memWf := Memory.nil_wf
  pcAligned := rfl
  sctlrStored := by rw [reset_sctlr]; exact and_mask_and_eq_zero (by decide) _
  actlrStored := and_mask_and_eq_zero (by decide) _
  dfsrStored := and_mask_and_eq_zero (by decide) _
  ifsrStored := and_mask_and_eq_zero (by decide) _
  adfsrStored := and_mask_and_eq_zero (by decide) _
  aifsrStored := and_mask_and_eq_zero (aifsrWMask_and_unstored _) _

/-- Settles O57, with the parameter whose bit 13 is cleared as the word. -/
theorem resetReadsOfControlRegisters : Obligations.ResetReadsOfControlRegisters := by
  refine ⟨Config.resetSctlrX &&& ~~~0x00002000#32, ?bit13, ?otherBits, reset_sctlr, ?readSctlr, ?actlr, ?readActlr⟩
  case bit13 => simp
  case otherBits =>
    intro k hk hne
    have hkept : (~~~0x00002000#32).getLsbD k = true := by revert k; decide
    rw [BitVec.getLsbD_and, hkept, Bool.and_true]
  case readSctlr => rw [readCp15, readSctlr_eq, reset_sctlr, and_mask_idem]
  case actlr => rw [← actlrWMask_eq, State.reset]
  case readActlr => exact readStored_and_mask actlrWMask_eq actlrRes_eq _ _

/-- Settles O58: each read function has the mask under which its register was reset. -/
theorem resetFaultRegistersAreDraws : Obligations.ResetFaultRegistersAreDraws :=
  ⟨readStored_and_mask dfsrWMask_eq dfsrRes_eq _ _, readStored_and_mask ifsrWMask_eq ifsrRes_eq _ _,
    readStored_and_mask auxWMask_eq auxRes_eq _ _, readStored_and_mask (aifsrWMask_eq _) auxRes_eq _ _, rfl, rfl⟩

/-- Settles O59: the program of reset is empty, so its end is where the pc stands. -/
theorem resetCoreState : Obligations.ResetCoreState := by
  have hregs : ∀ k : Fin 15, State.reset.regs[k] = 0#32 := fun k => by simp [State.reset]
  have hend : step State.reset = .fault .endOfRun := runEndsAtProgramEnd State.reset rfl rfl rfl rfl (by decide)
  exact ⟨rfl, rfl, rfl, rfl, rfl, hregs, rfl, rfl, rfl, rfl, rfl, hend⟩

end Sys2Proof.Machine
end

section
/-! Proofs of the statements of family other: what can change a CP15 word (60_exceptions.md section 3). -/

namespace Sys2Proof.Machine

/-- An event of the environment leaves the words of SCTLR and ACTLR (R114 to R118, R121). -/
theorem fireEvent_storedWord_control {r : Cp15Reg} (hr : r ∈ [Cp15Reg.sctlr, .actlr]) (e : EnvEvent) (s : State) :
    storedWord r (fireEvent e s) = storedWord r s := by
  obtain ⟨_, _, _, _, _, _, _, _, hfire⟩ := fireEvent_frame e s
  rw [hfire]
  obtain rfl | rfl : r = .sctlr ∨ r = .actlr := by simpa using hr
  · rfl
  · rfl

/-- An instruction that changes a CP15 word is an `MCR` of that register, in a privileged mode, whose condition passes
(R81, R100, R101). -/
theorem exec_storedWord_change {i : Instr} {s t : State} {r : Cp15Reg} (h : exec i s = .next t)
    (hne : storedWord r t ≠ storedWord r s) :
    i.op = .mcr ∧ i.reg = r ∧ s.privileged = true ∧ condPassed i.cond s.flags = true := by
  have hnamed : i.op = .mcr ∧ i.reg = r := by
    by_contra hother
    exact hne (exec_storedWord_frame h fun ho hr => hother ⟨ho, hr.symm⟩)
  obtain ⟨ho, hr⟩ := hnamed
  rcases exec_cases h with ⟨-, rfl⟩ | ⟨-, -, rfl⟩ | ⟨-, -, hc, hp, -⟩
  · exact absurd (storedWord_advance r s) hne
  · exact absurd (storedWord_raise r _ s) hne
  · exact ⟨ho, hr, hp, hc⟩

/-- Settles O53: a step is an event, which leaves SCTLR and ACTLR, or the fetched instruction; passing the boundary changes
neither a CP15 word nor the mode nor the flags. -/
theorem onlyMcrAndEventsWriteCp15 : Obligations.OnlyMcrAndEventsWriteCp15 := by
  intro s t r h hne
  rw [← storedWord_passBoundary r s] at hne
  rcases step_cases h with ⟨e, -, hdue, rfl⟩ | ⟨i, -, -, hfetch, hx⟩
  · exact .inl ⟨e, (dueEvent_eq_some_iff s e).mp hdue, fun hr => hne (fireEvent_storedWord_control hr e _)⟩
  · obtain ⟨ho, hreg, hp, hc⟩ := exec_storedWord_change hx hne
    rw [passBoundary_privileged] at hp
    rw [passBoundary_flags] at hc
    exact .inr ⟨i, hfetch, ho, hreg, hp, hc⟩

end Sys2Proof.Machine
end
